-- ==== Sys2Proof/Word.lean ====
section
/-! DEFINITION. The word types: the spec's byte and its 32-bit quantities (00_scope.md R12, R13). -/

namespace Sys2Proof

/-- A byte is 8 bits (R12). -/
abbrev Byte := BitVec 8

/-- A 32-bit pattern: an `i32` in two's complement or a `u32`, as the operation reads it (R13). -/
abbrev Word32 := BitVec 32

end Sys2Proof
end

