-- ==== Sys2Proof/Config.lean ====
section
/-! DEFINITION. The fixed sets of names, and the parameters of the block (00_scope.md R9, R10, R17).

Parameters that shape a type (LINE_CAP, the widths, NFIELDS) are constants (log 20); every other one is a
field of `Params`, which the decoder, the tokenizer and the scheduler take as an argument.  `Config.hw`
is the value this hardware takes.  TICK_PERIOD is not here: no rule depends on it (R9, R298). -/

namespace Sys2Proof

/-- The five fields, in line order and register order (R17): `x[0]` to `x[4]`. -/
inductive Field where
  | charge | voltage | current | speed | distance
  deriving DecidableEq, Repr

/-- The two outbound frames (30_encoding.md R89): Frame A and Frame B. -/
inductive FrameKind where
  | full | energy
  deriving DecidableEq, Repr

/-- The format names of spec/opcode_table.json (30_encoding.md R80, R92). -/
inductive Format where
  | byte | char | event | internal | frame | diag
  deriving DecidableEq, Repr

/-- COMMIT_POLICY (41_line_tokenizer.md R145 to R148): PARTIAL or ATOMIC. -/
inductive CommitPolicy where
  | partialWrite | atomic
  deriving DecidableEq, Repr

/-- OVERFLOW_POLICY: the spec gives it the one value DISCARD_LINE (R9). -/
inductive OverflowPolicy where
  | discardLine
  deriving DecidableEq, Repr

namespace Config

/-- LINE_CAP. -/
abbrev lineCap : Nat := 128
/-- FIELD_W: the width of `FieldWord`, and so of each register of `Regs`. -/
abbrev fieldW : Nat := 32
/-- TICK_W: the width of `TickWord`, and so of `Block.tick` and `Block.base`. -/
abbrev tickW : Nat := 32
/-- ID_W: the width of `FrameId`, and so of `Frame.id` and of `tx_id`. -/
abbrev idW : Nat := 11
/-- NFIELDS. -/
abbrev nFields : Nat := 5
/-- NTABS. -/
abbrev nTabs : Nat := 4

/-- TERM_LF. -/
abbrev termLf : Byte := 0x0A
/-- TERM_CR. -/
abbrev termCr : Byte := 0x0D
/-- SEP_TAB. -/
abbrev sepTab : Byte := 0x09
/-- CH_POINT. -/
abbrev chPoint : Byte := 0x2E
/-- CH_PLUS. -/
abbrev chPlus : Byte := 0x2B
/-- CH_MINUS. -/
abbrev chMinus : Byte := 0x2D
/-- CH_0. -/
abbrev ch0 : Byte := 0x30
/-- CH_9. -/
abbrev ch9 : Byte := 0x39

/-- The greatest token length, LINE_CAP less the four tabs (42_fixed_point_decoder.md R160). -/
abbrev maxToken : Nat := lineCap - nTabs

end Config

/-- A register's value: FIELD_W bits, signed (R9, R13). -/
abbrev FieldWord := BitVec Config.fieldW

/-- A tick count: TICK_W bits, unsigned (R9, D14). -/
abbrev TickWord := BitVec Config.tickW

/-- A frame's identifier: ID_W bits (R9, D18). -/
abbrev FrameId := BitVec Config.idW

/-- The parameters of R9 that shape no type. -/
structure Params where
  /-- MIN_LINE_LEN -/
  minLineLen : Nat
  /-- INT_MAX_CHARS -/
  intMaxChars : Nat
  /-- FRAC_DIGITS -/
  fracDigits : Nat
  /-- SCALE -/
  scale : Nat
  /-- FULL_PERIOD -/
  fullPeriod : Nat
  /-- ENERGY_OFFSET -/
  energyOffset : Nat
  /-- ID_FULL -/
  idFull : FrameId
  /-- LEN_FULL -/
  lenFull : Nat
  /-- ID_ENERGY -/
  idEnergy : FrameId
  /-- LEN_ENERGY -/
  lenEnergy : Nat
  /-- TX_MAP, the fields of Frame A -/
  txFull : List Field
  /-- TX_MAP, the fields of Frame B -/
  txEnergy : List Field
  /-- COMMIT_POLICY -/
  commitPolicy : CommitPolicy
  /-- OVERFLOW_POLICY -/
  overflowPolicy : OverflowPolicy
  deriving DecidableEq, Repr

namespace Config

/-- The values this hardware takes (R9). -/
def hw : Params where
  minLineLen := 2
  intMaxChars := 4
  fracDigits := 3
  scale := 1000
  fullPeriod := 1000
  energyOffset := 500
  idFull := 0x700
  lenFull := 8
  idEnergy := 0x702
  lenEnergy := 4
  txFull := [.voltage, .current]
  txEnergy := [.charge]
  commitPolicy := .partialWrite
  overflowPolicy := .discardLine

end Config

/-- The relations the parameters must keep (R10), those among `Params`, and the length of each frame
against the fields TX_MAP puts into it.  That the identifiers are below 2^ID_W is in their type. -/
abbrev Params.Coherent (P : Params) : Prop :=
  Config.nTabs = Config.nFields - 1 ∧ 1 ≤ Config.lineCap ∧
  P.scale = 10 ^ P.fracDigits ∧
  0 < P.energyOffset ∧ P.energyOffset < P.fullPeriod ∧ P.fullPeriod < 2 ^ Config.tickW ∧
  (10 ^ P.intMaxChars - 1) * P.scale + (P.scale - 1) < 2 ^ (Config.fieldW - 1) ∧
  P.lenFull = Config.fieldW / 8 * P.txFull.length ∧ P.lenFull ≤ 8 ∧
  P.lenEnergy = Config.fieldW / 8 * P.txEnergy.length ∧ P.lenEnergy ≤ 8

end Sys2Proof
end

