-- ==== Sys2Proof/Machine/Operands.lean ====
section
/-! DEFINITION. The operand forms: byte classes, the value of a digit, slices of a byte string, the
index of a field, and the byte order of a 32-bit value (30_encoding.md R81 to R86; 20_memory.md R53). -/

namespace Sys2Proof.Machine

/-- R81: the two terminators, compared on all 8 bits. -/
def isTerminator (b : Byte) : Bool := b == Config.termLf || b == Config.termCr

/-- R83: the separator. -/
def isTab (c : Byte) : Bool := c == Config.sepTab

/-- R84: class POINT. -/
def isPoint (c : Byte) : Bool := c == Config.chPoint

/-- R84: classes PLUS and MINUS. -/
def isSign (c : Byte) : Bool := c == Config.chPlus || c == Config.chMinus

/-- R84: class DIGIT. -/
def isDigit (c : Byte) : Bool := Config.ch0 ≤ c && c ≤ Config.ch9

/-- R84 with R83: the bytes that are in no other class of the CHAR rows. -/
def isOther (c : Byte) : Bool := !(isTab c || isPoint c || isSign c || isDigit c)

/-- R85: the value of a digit byte, `c - 0x30`. -/
def digitVal (c : Byte) : Nat := (c - Config.ch0).toNat

/-- The bytes a token may hold: any but 0x09, 0x0A and 0x0D (42_fixed_point_decoder.md R160). -/
def isTokenByte (c : Byte) : Bool := !(isTab c || isTerminator c)

/-- `s[i..j)` of R12: the bytes at indices i, i+1, ..., j-1, empty when i >= j. -/
def slice (s : List Byte) (i j : Nat) : List Byte := (s.take j).drop i

/-- The byte at index `i` of a word's bytes, a byte the word does not have reading as 0. -/
def byteAt (bs : List Byte) (i : Nat) : Byte := bs.getD i 0

/-- The register index of a field (R17). -/
def fieldIndex : Field → Nat
  | .charge => 0
  | .voltage => 1
  | .current => 2
  | .speed => 3
  | .distance => 4

/-- The field at a register index (R17); the register file has five. -/
def fieldOfIndex : Nat → Option Field
  | 0 => some .charge
  | 1 => some .voltage
  | 2 => some .current
  | 3 => some .speed
  | 4 => some .distance
  | _ => none

/-- The fields in decoding order (R145 of 41_line_tokenizer.md). -/
def fieldOrder : List Field := [.charge, .voltage, .current, .speed, .distance]

/-- `LE32(v) = [v[7:0], v[15:8], v[23:16], v[31:24]]` (R13, R53). -/
def le32 (v : Word32) : List Byte :=
  [v.extractLsb' 0 8, v.extractLsb' 8 8, v.extractLsb' 16 8, v.extractLsb' 24 8]

/-- The 32-bit pattern whose `le32` the four bytes are. -/
def ofLe32 (b0 b1 b2 b3 : Byte) : Word32 := b3 ++ b2 ++ b1 ++ b0

/-- One bit carried in a byte of a word: 0 or 1, any other value is no bit. -/
def bitOfByte (b : Byte) : Option Bool :=
  if b = 0 then some false else if b = 1 then some true else none

/-- The byte that carries one bit. -/
def byteOfBit (b : Bool) : Byte := if b then 1 else 0

/-- aux[0] of a transmit record (60_exceptions.md R250): 0 for Frame A, 1 for Frame B. -/
def frameBit : FrameKind → Byte
  | .full => 0
  | .energy => 1

/-- The frame that aux names in a transmit record (R250). -/
def frameOfBit (b : Byte) : Option FrameKind :=
  if b = 0 then some .full else if b = 1 then some .energy else none

end Sys2Proof.Machine
end

