-- ==== Sys2Proof/Syntax.lean ====
section
/-! DEFINITION. `Instr`: one constructor per row of spec/opcode_table.json, in the table's order
(30_encoding.md R92).  Operands are those of the row's rule. -/

namespace Sys2Proof

/-- The rows of the opcode table.  BYTE, CHAR, EVENT, FRAME and DIAG rows are bit patterns of the
hardware; INTERNAL rows are operations those reach, and the table gives them an ordinal only (R92). -/
inductive Instr where
  -- BYTE: the input byte at the LineAssembler (R81)
  /-- FEED.LF: the terminator 0x0A (R126, R127) -/
  | feedLf
  /-- FEED.CR: the terminator 0x0D (R126, R127) -/
  | feedCr
  /-- FEED.APPEND: a data byte (R123, R124, R125) -/
  | feedAppend (b : Byte)
  -- CHAR: a byte of a line as the tokenizer and the decoder see it (R83, R84)
  /-- CH.TAB (R143, R144) -/
  | chTab
  /-- CH.POINT (R162) -/
  | chPoint
  /-- CH.PLUS (R168) -/
  | chPlus
  /-- CH.MINUS (R165, R168) -/
  | chMinus
  /-- CH.DIGIT_0_7: 00110ddd (R168) -/
  | chDigit07 (d : BitVec 3)
  /-- CH.DIGIT_8_9: 0011100d (R168) -/
  | chDigit89 (d : BitVec 1)
  /-- CH.OTHER: every other byte (R168) -/
  | chOther (c : Byte)
  -- EVENT: the strobes (R90)
  /-- RESET (R224, R280) -/
  | reset
  /-- TICK (R221) -/
  | tick
  /-- FEED with rx_data (R222, R122) -/
  | feed (b : Byte)
  /-- POLL with tx_ok (R223, R202) -/
  | poll (txOk : Bool)
  -- INTERNAL: the operations the events run (R92)
  /-- LINE_COMPLETE (R126, R127) -/
  | lineComplete
  /-- APPEND (R123, R124, R125) -/
  | append (b : Byte)
  /-- TOKENIZE (R140) -/
  | tokenize
  /-- DECODE of a token (R160) -/
  | decode (token : List Byte)
  /-- NORM3 of a fractional part (R167) -/
  | norm3 (fp : List Byte)
  /-- SCAN of a byte string, with sign_allowed (R168, R169) -/
  | scan (signAllowed : Bool) (str : List Byte)
  /-- WRITE_FIELD (R191) -/
  | writeField (k : Field) (v : FieldWord)
  /-- SCHED.FULL (R203) -/
  | schedFull (txOk : Bool)
  /-- SCHED.ENERGY (R204) -/
  | schedEnergy (txOk : Bool)
  /-- SCHED.IDLE (R207) -/
  | schedIdle
  -- FRAME: the outbound frames (R89)
  /-- TX.FULL, Frame A (R203) -/
  | txFull
  /-- TX.ENERGY, Frame B (R204) -/
  | txEnergy
  -- DIAG: the diagnostic records (R91, R250)
  /-- DIAG.NONE: code 0 -/
  | diagNone
  /-- DIAG.BUFFER_OVERFLOW: code 1 (R241) -/
  | diagBufferOverflow
  /-- DIAG.TOO_SHORT: code 2 (R242) -/
  | diagTooShort
  /-- DIAG.FIELD_COUNT_MISMATCH: code 3 (R243) -/
  | diagFieldCountMismatch
  /-- DIAG.DECODE_FAILURE.NOT_DECIMAL: code 4, aux the field index (R244, R246) -/
  | diagNotDecimal (k : Field)
  /-- DIAG.DECODE_FAILURE.TOKEN_TOO_LONG: code 5, aux the field index (R245, R246) -/
  | diagTokenTooLong (k : Field)
  /-- DIAG.TRANSMIT_FAILURE: code 6, aux the frame (R247) -/
  | diagTransmitFailure (f : FrameKind)
  /-- DIAG.TRANSMIT_OK: code 7, aux the frame (R247) -/
  | diagTransmitOk (f : FrameKind)
  /-- DIAG.UNUSED: codes 8 to 15, `low` the low three bits; R250 leaves their aux blank, and the row
  carries none (log 14) -/
  | diagUnused (low : BitVec 3)
  deriving DecidableEq, Repr

end Sys2Proof
end

