-- ==== Sys2Proof/Machine/Cycle.lean ====
section
/-! DEFINITION. One clock cycle of the environment's strobes and data lines, and the events it holds in
the order they happen (30_encoding.md R90, 60_exceptions.md R258; log 7). -/

namespace Sys2Proof.Machine

/-- The inputs of one clock cycle: the vector `{rst, tick_inc, rx_valid, poll}`, `rx_data[7:0]`
(meaningful when `rx_valid`) and `tx_ok` (meaningful when a POLL sends a frame) (R90, R266). -/
structure Cycle where
  rst : Bool
  tickInc : Bool
  rxValid : Bool
  rxData : Byte
  poll : Bool
  txOk : Bool
  deriving DecidableEq, Repr

/-- The events of one cycle, in order: RESET wins alone; otherwise TICK, then FEED, then POLL (R258).
The vector 0000 is no event (R90). -/
def Cycle.events (c : Cycle) : List Instr :=
  if c.rst then [.reset]
  else (if c.tickInc then [.tick] else []) ++ (if c.rxValid then [.feed c.rxData] else []) ++
    (if c.poll then [.poll c.txOk] else [])

/-- The first event of a cycle (R258). -/
def Cycle.firstEvent (c : Cycle) : Option Instr :=
  if c.rst then some .reset
  else if c.tickInc then some .tick
  else if c.rxValid then some (.feed c.rxData)
  else if c.poll then some (.poll c.txOk)
  else none

/-- What is left of a cycle once its first event has happened: nothing after RESET, else the same
cycle with that strobe low, if another strobe is high. -/
def Cycle.remainder (c : Cycle) : List Cycle :=
  if c.rst then []
  else if c.tickInc then (if c.rxValid || c.poll then [{ c with tickInc := false }] else [])
  else if c.rxValid then (if c.poll then [{ c with rxValid := false }] else [])
  else []

/-- The strobe vector as a number, bit 3 = `rst` (R90). -/
def Cycle.vector (c : Cycle) : Byte :=
  byteOfBit c.rst * 8 + byteOfBit c.tickInc * 4 + byteOfBit c.rxValid * 2 + byteOfBit c.poll

/-- The bytes of an EVENT word: the vector, then `rx_data`, then `tx_ok` (DESIGN CHOICE, log 9). -/
def Cycle.toBytes (c : Cycle) : List Byte := [c.vector, c.rxData, byteOfBit c.txOk]

/-- The cycle an EVENT word stands for.  The vector is 4 bits wide and `tx_ok` one: any other bit set
is no word of the format. -/
def Cycle.ofBytes (bs : List Byte) : Option Cycle :=
  let v := byteAt bs 0
  if v < 16 then
    (bitOfByte (byteAt bs 2)).map fun ok =>
      { rst := v.getLsbD 3, tickInc := v.getLsbD 2, rxValid := v.getLsbD 1, rxData := byteAt bs 1,
        poll := v.getLsbD 0, txOk := ok }
  else none

end Sys2Proof.Machine
end

