-- ==== Sys2Proof/WellFormed.lean ====
section
/-! DEFINITION. Which terms of `Instr` the encodings admit.  Each check cites the rule that bounds the
operand; a constructor with no check takes every operand. -/

namespace Sys2Proof

open Machine

/-- The operands a row's rule admits. -/
def wellFormed : Instr → Bool
  | .feedLf => true
  | .feedCr => true
  -- R81: a data byte is any value but the two terminators
  | .feedAppend b => !isTerminator b
  | .chTab => true
  | .chPoint => true
  | .chPlus => true
  | .chMinus => true
  | .chDigit07 _ => true
  | .chDigit89 _ => true
  -- R84, R92: the default row takes what no other row of the format takes
  | .chOther c => isOther c
  | .reset => true
  | .tick => true
  | .feed _ => true
  | .poll _ => true
  | .lineComplete => true
  -- R123: a data byte
  | .append b => !isTerminator b
  | .tokenize => true
  -- R160: at most 124 bytes, none of them 0x09, 0x0A, 0x0D
  | .decode t => t.length ≤ Config.maxToken && t.all isTokenByte
  -- R167, R168: any bytes; a part of a token is no longer than a token
  | .norm3 fp => fp.length ≤ Config.maxToken
  | .scan _ s => s.length ≤ Config.maxToken
  -- R191: no range check
  | .writeField _ _ => true
  | .schedFull _ => true
  | .schedEnergy _ => true
  | .schedIdle => true
  | .txFull => true
  | .txEnergy => true
  | .diagNone => true
  | .diagBufferOverflow => true
  | .diagTooShort => true
  | .diagFieldCountMismatch => true
  | .diagNotDecimal _ => true
  | .diagTokenTooLong _ => true
  | .diagTransmitFailure _ => true
  | .diagTransmitOk _ => true
  | .diagUnused _ => true

end Sys2Proof
end

