-- ==== Sys2Proof/Decode.lean ====
section
/-! DEFINITION. The decoder and the encoder of the opcode table's words (30_encoding.md R80 to R92).

A word is a format and its bytes, byte 0 first: the bytes alone do not say which of the six decoders
reads them (R80: the same byte 0x01 is a data byte, a strobe vector, an ordinal and a code).  What the
spec gives no bits (the operands of INTERNAL rows, the data lines of EVENT, aux beside code) stands in
the bytes after byte 0: a DESIGN CHOICE, log 9.  Every byte past the last one a word uses is 0. -/

namespace Sys2Proof

open Machine

/-- Why bytes are no word of their format. -/
inductive Reject where
  /-- EVENT: the vector 0000 is no event (R90) -/
  | noEvent
  /-- EVENT: a bit outside the vector or outside `tx_ok` is set -/
  | badVector
  /-- INTERNAL: no row has this ordinal (R92: 0 to 9) -/
  | noOrdinal
  /-- FRAME: no row has this identifier (R89) -/
  | noIdentifier
  /-- DIAG: the code or its aux is none of R250's -/
  | noCode
  /-- an operand outside what the row's rule admits -/
  | badOperand
  /-- a bit is set past the last byte the word uses -/
  | trailingBits
  deriving DecidableEq, Repr

/-- The word uses its first `n` bytes: the others are 0. -/
def tailIsZero (n : Nat) (bs : List Byte) : Bool := (bs.drop n).all (· == 0)

/-- A byte string carried in a word: its length in byte `i`, its bytes after it. -/
def stringAt (i : Nat) (bs : List Byte) : List Byte :=
  (List.range (byteAt bs i).toNat).map fun j => byteAt bs (i + 1 + j)

/-- BYTE: the two terminators, and the default row (R81). -/
def decodeByte (b : Byte) : Instr :=
  if b = Config.termLf then .feedLf else if b = Config.termCr then .feedCr else .feedAppend b

/-- CHAR: the classes of R83 and R84 by match and mask, and the default row. -/
def decodeChar (c : Byte) : Instr :=
  if c = Config.sepTab then .chTab
  else if c = Config.chPoint then .chPoint
  else if c = Config.chPlus then .chPlus
  else if c = Config.chMinus then .chMinus
  else if c &&& 0xF8 = 0x30 then .chDigit07 (c.extractLsb' 0 3)
  else if c &&& 0xFE = 0x38 then .chDigit89 (c.extractLsb' 0 1)
  else .chOther c

/-- EVENT: the first event of the vector (R90, R258).  A vector of several strobes is several events: the
decoder names the first, and the step presents the others after it (`eventsAfter`; log 9). -/
def decodeEvent (bs : List Byte) : Except Reject (Instr × Nat) :=
  match Cycle.ofBytes bs with
  | none => .error .badVector
  | some c =>
    match c.firstEvent with
    | none => .error .noEvent
    | some i => .ok (i, 3)

/-- INTERNAL: the ordinal of R92 in byte 0, the operands after it; with the number of bytes used. -/
def decodeInternal (bs : List Byte) : Except Reject (Instr × Nat) :=
  match (byteAt bs 0).toNat with
  | 0 => .ok (.lineComplete, 1)
  | 1 => .ok (.append (byteAt bs 1), 2)
  | 2 => .ok (.tokenize, 1)
  | 3 => .ok (.decode (stringAt 1 bs), 2 + (byteAt bs 1).toNat)
  | 4 => .ok (.norm3 (stringAt 1 bs), 2 + (byteAt bs 1).toNat)
  | 5 =>
    match bitOfByte (byteAt bs 1) with
    | some sa => .ok (.scan sa (stringAt 2 bs), 3 + (byteAt bs 2).toNat)
    | none => .error .badOperand
  | 6 =>
    match fieldOfIndex (byteAt bs 1).toNat with
    | some k =>
      .ok (.writeField k (ofLe32 (byteAt bs 2) (byteAt bs 3) (byteAt bs 4) (byteAt bs 5)), 6)
    | none => .error .badOperand
  | 7 =>
    match bitOfByte (byteAt bs 1) with
    | some ok => .ok (.schedFull ok, 2)
    | none => .error .badOperand
  | 8 =>
    match bitOfByte (byteAt bs 1) with
    | some ok => .ok (.schedEnergy ok, 2)
    | none => .error .badOperand
  | 9 => .ok (.schedIdle, 1)
  | _ => .error .noOrdinal

/-- FRAME: the 11-bit identifier, low byte first (R89). -/
def decodeFrame (bs : List Byte) : Except Reject (Instr × Nat) :=
  let id := byteAt bs 1 ++ byteAt bs 0
  if id = Config.hw.idFull.zeroExtend 16 then .ok (.txFull, 2)
  else if id = Config.hw.idEnergy.zeroExtend 16 then .ok (.txEnergy, 2)
  else .error .noIdentifier

/-- DIAG: the code in byte 0, aux in byte 1 (R91, R250; log 9).  R250 leaves the aux of the codes 8 to 15
blank and R92 matches their row on the code alone: any four bits of aux are taken (log 14). -/
def decodeDiag (bs : List Byte) : Except Reject (Instr × Nat) :=
  let aux := byteAt bs 1
  match (byteAt bs 0).toNat with
  | 0 => if aux = 0 then .ok (.diagNone, 2) else .error .noCode
  | 1 => if aux = 0 then .ok (.diagBufferOverflow, 2) else .error .noCode
  | 2 => if aux = 0 then .ok (.diagTooShort, 2) else .error .noCode
  | 3 => if aux = 0 then .ok (.diagFieldCountMismatch, 2) else .error .noCode
  | 4 =>
    match fieldOfIndex aux.toNat with
    | some k => .ok (.diagNotDecimal k, 2)
    | none => .error .noCode
  | 5 =>
    match fieldOfIndex aux.toNat with
    | some k => .ok (.diagTokenTooLong k, 2)
    | none => .error .noCode
  | 6 =>
    match frameOfBit aux with
    | some f => .ok (.diagTransmitFailure f, 2)
    | none => .error .noCode
  | 7 =>
    match frameOfBit aux with
    | some f => .ok (.diagTransmitOk f, 2)
    | none => .error .noCode
  | _ =>
    if byteAt bs 0 < 16 ∧ aux < 16 then .ok (.diagUnused ((byteAt bs 0).extractLsb' 0 3), 2)
    else .error .noCode

/-- What the decoder of a format reads, with the number of bytes the word uses. -/
def decodeFormat (f : Format) (bs : List Byte) : Except Reject (Instr × Nat) :=
  match f with
  | .byte => .ok (decodeByte (byteAt bs 0), 1)
  | .char => .ok (decodeChar (byteAt bs 0), 1)
  | .event => decodeEvent bs
  | .internal => decodeInternal bs
  | .frame => decodeFrame bs
  | .diag => decodeDiag bs

/-- The decoder: total on any bytes, rejecting by name, and giving only well-formed terms. -/
def decode (f : Format) (bs : List Byte) : Except Reject Instr :=
  match decodeFormat f bs with
  | .error r => .error r
  | .ok (i, n) =>
    if tailIsZero n bs then (if wellFormed i then .ok i else .error .badOperand)
    else .error .trailingBits

/-- The events of a word that come after the one the decoder names: what is left of an EVENT word's
cycle, nothing for a word of another format (R90: all the rows that match happen; R258). -/
def eventsAfter (f : Format) (bs : List Byte) : List Cycle :=
  match f, Cycle.ofBytes bs with
  | .event, some c => c.remainder
  | _, _ => []

/-- A byte string carried in a word: its length, then its bytes. -/
def stringBytes (s : List Byte) : List Byte := BitVec.ofNat 8 s.length :: s

/-- The index of a field as a byte of a word. -/
def fieldByte (k : Field) : Byte := BitVec.ofNat 8 (fieldIndex k)

/-- The bytes of a FRAME word: the identifier, low byte first (log 9). -/
def idBytes (id : FrameId) : List Byte :=
  [(id.zeroExtend 16).extractLsb' 0 8, (id.zeroExtend 16).extractLsb' 8 8]

/-- The encoder: the format and the bytes of an instruction, from the same tables. -/
def encode : Instr → Format × List Byte
  | .feedLf => (.byte, [Config.termLf])
  | .feedCr => (.byte, [Config.termCr])
  | .feedAppend b => (.byte, [b])
  | .chTab => (.char, [Config.sepTab])
  | .chPoint => (.char, [Config.chPoint])
  | .chPlus => (.char, [Config.chPlus])
  | .chMinus => (.char, [Config.chMinus])
  | .chDigit07 d => (.char, [(0b00110#5 ++ d : BitVec 8)])
  | .chDigit89 d => (.char, [(0b0011100#7 ++ d : BitVec 8)])
  | .chOther c => (.char, [c])
  | .reset => (.event, [0b1000, 0, 0])
  | .tick => (.event, [0b0100, 0, 0])
  | .feed b => (.event, [0b0010, b, 0])
  | .poll ok => (.event, [0b0001, 0, byteOfBit ok])
  | .lineComplete => (.internal, [0])
  | .append b => (.internal, [1, b])
  | .tokenize => (.internal, [2])
  | .decode t => (.internal, 3 :: stringBytes t)
  | .norm3 fp => (.internal, 4 :: stringBytes fp)
  | .scan sa s => (.internal, 5 :: byteOfBit sa :: stringBytes s)
  | .writeField k v => (.internal, 6 :: fieldByte k :: le32 v)
  | .schedFull ok => (.internal, [7, byteOfBit ok])
  | .schedEnergy ok => (.internal, [8, byteOfBit ok])
  | .schedIdle => (.internal, [9])
  | .txFull => (.frame, idBytes Config.hw.idFull)
  | .txEnergy => (.frame, idBytes Config.hw.idEnergy)
  | .diagNone => (.diag, [0, 0])
  | .diagBufferOverflow => (.diag, [1, 0])
  | .diagTooShort => (.diag, [2, 0])
  | .diagFieldCountMismatch => (.diag, [3, 0])
  | .diagNotDecimal k => (.diag, [4, fieldByte k])
  | .diagTokenTooLong k => (.diag, [5, fieldByte k])
  | .diagTransmitFailure f => (.diag, [6, frameBit f])
  | .diagTransmitOk f => (.diag, [7, frameBit f])
  | .diagUnused low => (.diag, [(0b00001#5 ++ low : BitVec 8), 0])

/-- The format a table word without its format is read in.  A number alone does not name its row (the
formats share their numbers), so this is a tie-break and no fact of the hardware (DESIGN CHOICE, log
10): the two frame identifiers; the terminators; the CHAR rows that name a byte; a vector of one
strobe, or one with `rst`; an ordinal; any other byte as input. -/
def tableFormat (nbits w : Nat) : Format :=
  if w = Config.hw.idFull.toNat || w = Config.hw.idEnergy.toNat then .frame
  else if 8 < nbits then .byte
  else if isTerminator (BitVec.ofNat 8 w) then .byte
  else if !isOther (BitVec.ofNat 8 w) then .char
  else if w = 1 || w = 2 || w = 4 || (8 ≤ w && w < 16) then .event
  else if w < 8 then .internal
  else .byte

/-- The bytes of a table word, byte 0 first.  FRAME words have 11 bits, every other format 8 or fewer
(R80): a bit above them is the reader's, not the format's (98_reader.md), and is dropped. -/
def tableBytes (f : Format) (w : Nat) : List Byte :=
  match f with
  | .frame => [BitVec.ofNat 8 w, BitVec.ofNat 8 (w / 256)]
  | _ => [BitVec.ofNat 8 w]

/-- The instruction the decoder reads from a table word. -/
def decodeTableWord (nbits w : Nat) : Option Instr :=
  (decode (tableFormat nbits w) (tableBytes (tableFormat nbits w) w)).toOption

end Sys2Proof
end

