-- ==== Sys2Proof/Machine/State.lean ====
section
/-! DEFINITION. The state of the machine, as plain data, and its value after reset.

`Block` is the record of 10_state.md R20, the whole architectural state.  The other fields of `State`
are the model's own: what the environment presents next and what the block has handed over (the inputs
and outputs of R38, which the host's form of a step keeps beside the block: log 1), and the scratch of
a row that is run on its own (R36; log 11, log 12). -/

namespace Sys2Proof.Machine

/-- The LineBuffer's bytes as a list of cells in canonical form: indices strictly rising, and no
cell holding what an unlisted index reads as (`unlistedByte`). -/
abbrev Memory := List Host.Cell

/-- What an index reads as when no cell lists it (DESIGN CHOICE, log 3; R28: not observable). -/
abbrev unlistedByte : Byte := 0

/-- TelemetryState: the five registers `x[0]` to `x[4]` (R21). -/
structure Regs where
  charge : FieldWord
  voltage : FieldWord
  current : FieldWord
  speed : FieldWord
  distance : FieldWord
  deriving DecidableEq, Repr

/-- The architectural state of the block (R20). -/
structure Block where
  /-- TelemetryState, `x[0..4]` (R21) -/
  x : Regs
  /-- the LineBuffer's bytes (R26) -/
  buf : Memory
  /-- how many bytes of `buf` are valid: 0 to LINE_CAP (R27) -/
  len : Fin (Config.lineCap + 1)
  /-- the line being assembled has overflowed (R29) -/
  ovf : Bool
  /-- the count of TICK events, modulo 2^32 (R30) -/
  tick : TickWord
  /-- `lastFullFrameTick` (R31) -/
  base : TickWord
  /-- the energy frame of the current window has been attempted (R32) -/
  energySent : Bool
  deriving DecidableEq, Repr

/-- The errors the decoder returns to the tokenizer (60_exceptions.md R244, R245). -/
inductive DecodeError where
  | notDecimal | tokenTooLong
  deriving DecidableEq, Repr

/-- What DECODE returns (42_fixed_point_decoder.md R160). -/
inductive DecodeResult where
  | value (v : FieldWord)
  | error (e : DecodeError)
  deriving DecidableEq, Repr

/-- What TOKENIZE returns (41_line_tokenizer.md R140). -/
inductive TokenizeResult where
  | ok
  | tooShort
  | fieldCountMismatch
  | decodeFailure (k : Field) (e : DecodeError)
  deriving DecidableEq, Repr

/-- A record to the diagnostics sink: the kinds of 60_exceptions.md R240 that reach it, NotDecimal and
TokenTooLong inside a DecodeFailure. -/
inductive Diag where
  | bufferOverflow
  | tooShort
  | fieldCountMismatch
  | decodeFailure (k : Field) (e : DecodeError)
  | txStatus (f : FrameKind) (ok : Bool)
  deriving DecidableEq, Repr

/-- A frame: identifier, length, payload bytes with offset 0 first (30_encoding.md R89). -/
structure Frame where
  id : FrameId
  len : Nat
  payload : List Byte
  deriving DecidableEq, Repr

/-- What an event hands over to a collaborator (45_top_level_events.md R225). -/
inductive Output where
  | frame (f : Frame)
  | diag (d : Diag)
  deriving DecidableEq, Repr

/-- The scratch values of one DECODE (R36), as they stand after some bytes of a token. -/
structure TokenScan where
  /-- how many bytes of the token have been seen: the index of the next one -/
  seen : Nat
  /-- `sgn`: the byte at index 0 was '+' or '-' -/
  signed : Bool
  /-- the sign bit `neg` -/
  neg : Bool
  /-- the point position `p` -/
  point : Option Nat
  /-- the magnitude `I` so far -/
  intMag : Nat
  /-- a non-digit has stopped the scan of the integer part -/
  intStop : Bool
  /-- how many bytes of the fraction have been kept -/
  kept : Nat
  /-- the magnitude `F` of the digits kept so far -/
  fracMag : Nat
  /-- a non-digit has stopped the scan of the kept fraction -/
  fracStop : Bool
  deriving DecidableEq, Repr

/-- What an operation that returns a value handed back. -/
inductive Returned where
  /-- DECODE -/
  | decoded (r : DecodeResult)
  /-- NORM3 -/
  | bytes (f3 : List Byte)
  /-- SCAN -/
  | magnitude (n : Nat)
  /-- TOKENIZE -/
  | tokenized (r : TokenizeResult)
  deriving DecidableEq, Repr

/-- The model's own scratch, for CHAR and INTERNAL rows run on their own (log 11, log 12). -/
structure Scratch where
  /-- the token being seen, byte by byte -/
  tok : TokenScan
  /-- the results of the fields closed by a tab, oldest first, since the last RESET: a line's end does
  not empty it (log 23) -/
  closed : List DecodeResult
  /-- what the last operation that returns a value handed back -/
  ret : Option Returned
  deriving DecidableEq, Repr

/-- What the environment presents: one clock cycle of the block's inputs (R90), or the word of one
table row on its own (the model's, log 8). -/
inductive Entry where
  | cycle (c : Cycle)
  | word (f : Format) (bs : List Byte)
  deriving DecidableEq, Repr

/-- The state of the machine. -/
structure State where
  /-- the architectural state (R20) -/
  block : Block
  /-- the model's scratch -/
  scratch : Scratch
  /-- what the environment presents, the next entry first -/
  inbox : List Entry
  /-- what has been handed over, oldest first -/
  trace : List Output
  deriving DecidableEq, Repr

/-- Reasons to stop with a fault.  There is none: "There is no fatal error class in this subsystem"
(60_exceptions.md R251), and the block has no faulted state (45_top_level_events.md R229). -/
inductive Fault where
  deriving DecidableEq, Repr

/-- Reasons a step has no meaning.  No step has one: "Nothing is treated as refuse"
(93_implementation_defined.md), and a word that no row matches is no event (log 8). -/
inductive Refusal where
  /-- Raised by an arm of `exec` whose instruction has no meaning yet; no arm is one.  Safe: it only
  stops. -/
  | notModelled (mnemonic : String)
  deriving DecidableEq, Repr

/-- R39: the five registers are 0. -/
def Regs.zero : Regs := { charge := 0, voltage := 0, current := 0, speed := 0, distance := 0 }

/-- R39; the bytes of `buf` are unspecified there, and the model lists none (log 3). -/
def Block.reset : Block :=
  { x := Regs.zero, buf := [], len := 0, ovf := false, tick := 0, base := 0, energySent := false }

/-- No byte of a token seen yet. -/
def TokenScan.start : TokenScan :=
  { seen := 0, signed := false, neg := false, point := none, intMag := 0, intStop := false,
    kept := 0, fracMag := 0, fracStop := false }

/-- The model's scratch before any row has used it (log 5). -/
def Scratch.start : Scratch := { tok := TokenScan.start, closed := [], ret := none }

/-- The machine right after reset (R39): the block's reset values, nothing presented and nothing
handed over. -/
def State.reset : State :=
  { block := Block.reset, scratch := Scratch.start, inbox := [], trace := [] }

end Sys2Proof.Machine
end

