-- ==== Sys2Proof/Machine/Flags.lean ====
section
/-! DEFINITION. The block's two flags (10_state.md R34) and the scheduler's unsigned comparisons
(44_transmit_scheduler.md R201, R202, R213).  No arithmetic operation sets a flag. -/

namespace Sys2Proof.Machine

/-- Write `ovf` (R29): set by APPEND at `len` = LINE_CAP, cleared by LINE_COMPLETE and RESET. -/
def setOvf (v : Bool) (m : Block) : Block := { m with ovf := v }

/-- Write `energySent` (R32): set by SCHED.ENERGY, cleared by SCHED.FULL and RESET. -/
def setEnergySent (v : Bool) (m : Block) : Block := { m with energySent := v }

/-- `elapsed <- (now - base) mod 2^32` (R201). -/
def elapsed (now : TickWord) (m : Block) : TickWord := now - m.base

/-- The full frame is due: elapsed >= FULL_PERIOD, unsigned (R202). -/
def fullDue (P : Params) (now : TickWord) (m : Block) : Bool :=
  P.fullPeriod ≤ (elapsed now m).toNat

/-- The energy frame is due: elapsed >= ENERGY_OFFSET and not yet attempted in this window (R202). -/
def energyDue (P : Params) (now : TickWord) (m : Block) : Bool :=
  P.energyOffset ≤ (elapsed now m).toNat && !m.energySent

end Sys2Proof.Machine
end

