-- ==== Sys2Proof/Machine/Ops.lean ====
section
/-! DEFINITION. The named operations over the LineBuffer, the register file and the collaborators
(00_scope.md R14), and REPORT, the one operation every error goes through (60_exceptions.md R251).

The block has no exception entry and no return from one (R251, R253): an error ends its operation, one
record is handed to the diagnostics sink, nothing is saved, no mode changes, control goes nowhere. -/

namespace Sys2Proof.Machine

/-- One byte of the LineBuffer. -/
def Memory.read : Memory → Nat → Byte
  | [], _ => unlistedByte
  | (k, v) :: rest, a => if a = k then v else Memory.read rest a

/-- A cell put in front of a canonical list, unless its byte is what an unlisted index reads as. -/
def Memory.cons (a : Nat) (b : Byte) (m : Memory) : Memory :=
  if b = unlistedByte then m else (a, b) :: m

/-- `MemWrite(a, 1, b)`, keeping the canonical form. -/
def Memory.write : Memory → Nat → Byte → Memory
  | [], a, b => Memory.cons a b []
  | (k, v) :: rest, a, b =>
    if a < k then Memory.cons a b ((k, v) :: rest)
    else if a = k then Memory.cons a b rest
    else (k, v) :: Memory.write rest a b

/-- The canonical form: indices strictly rising and below LINE_CAP, no cell equal to what an unlisted
index reads as. -/
def Memory.wf : Memory → Bool
  | [] => true
  | (k, v) :: rest =>
    v != unlistedByte && decide (k < Config.lineCap) && rest.all (fun c => decide (k < c.1)) &&
      Memory.wf rest

/-- `MemRead(i, n)`: the `n` bytes at indices i .. i+n-1 (R14). -/
def memRead (m : Memory) (i n : Nat) : List Byte := (List.range n).map fun j => m.read (i + j)

/-- The line held: `buf[0..len)` (30_encoding.md R86). -/
def lineBytes (m : Block) : List Byte := memRead m.buf 0 m.len.val

/-- Clear the buffer: length to 0, the bytes left as they are (10_state.md R26, R28). -/
def clearLine (m : Block) : Block := { m with len := 0 }

/-- Read of `x[k]` (R14). -/
def Regs.get (x : Regs) : Field → FieldWord
  | .charge => x.charge
  | .voltage => x.voltage
  | .current => x.current
  | .speed => x.speed
  | .distance => x.distance

/-- Write of `x[k]`: all 32 bits at once, the other four unchanged (R14, 43_telemetry_regfile.md
R191). -/
def Regs.set (x : Regs) (k : Field) (v : FieldWord) : Regs :=
  match k with
  | .charge => { x with charge := v }
  | .voltage => { x with voltage := v }
  | .current => { x with current := v }
  | .speed => { x with speed := v }
  | .distance => { x with distance := v }

/-- `report d`: one record handed to the diagnostics sink (R251, 60_exceptions.md R265). -/
def report (d : Diag) : List Output := [.diag d]

/-- `send(id, n, bytes)`: one frame handed to the transmitter (60_exceptions.md R264). -/
def send (f : Frame) : List Output := [.frame f]

/-- The record of what TOKENIZE returned; Ok is not reported (R149 of 41_line_tokenizer.md). -/
def reportResult : TokenizeResult → List Output
  | .ok => []
  | .tooShort => report .tooShort
  | .fieldCountMismatch => report .fieldCountMismatch
  | .decodeFailure k e => report (.decodeFailure k e)

/-- What an operation on the block did, put into the state: the block it left, and what it handed
over after everything handed over before (R225). -/
def State.commit (s : State) (r : Block × List Output) : State :=
  { s with block := r.1, trace := s.trace ++ r.2 }

/-- The state with something handed over and the block unchanged. -/
def State.hand (s : State) (o : List Output) : State := { s with trace := s.trace ++ o }

/-- The state with the result of an operation run on its own (log 12). -/
def State.returned (s : State) (r : Returned) : State :=
  { s with scratch := { s.scratch with ret := some r } }

/-- The state with the token being seen replaced (log 11). -/
def State.setTok (s : State) (t : TokenScan) : State :=
  { s with scratch := { s.scratch with tok := t } }

end Sys2Proof.Machine
end

