-- ==== Sys2Proof/Machine/Decoder.lean ====
section
/-! DEFINITION. The FixedPointDecoder: DECODE, NORM3, SCAN (42_fixed_point_decoder.md), each a pure
function of its operand (R160, R174), and the three INTERNAL rows that run one on its own. -/

namespace Sys2Proof.Machine

/-- `p`: the least index of a byte 0x2E (R162). -/
def findPoint (t : List Byte) : Option Nat := t.findIdx? isPoint

/-- `sgn`: the first byte is '+' or '-' (R160). -/
def hasSign : List Byte → Bool
  | [] => false
  | c :: _ => isSign c

/-- `neg`: the first byte is '-' (R165). -/
def isNegative : List Byte → Bool
  | [] => false
  | c :: _ => c == Config.chMinus

/-- NORM3 (R167): FRAC_DIGITS bytes, padded on the right with '0' or cut. -/
def norm3 (P : Params) (fp : List Byte) : List Byte :=
  (List.range P.fracDigits).map fun i => fp.getD i Config.ch0

/-- The loop of SCAN: accumulate digits until the first byte that is none (R168). -/
def scanDigits (acc : Nat) : List Byte → Nat
  | [] => acc
  | c :: rest => if isDigit c then scanDigits (acc * 10 + digitVal c) rest else acc

/-- SCAN (R168, R169): one leading sign is skipped where it is allowed, never applied. -/
def scan (signAllowed : Bool) (s : List Byte) : Nat :=
  scanDigits 0 (if signAllowed && hasSign s then s.tail else s)

/-- The result: the magnitude, negated when the sign is negative, in its low FIELD_W bits (R171,
R176; log 17). -/
def signedMilli (neg : Bool) (v : Nat) : FieldWord :=
  if neg then BitVec.ofInt Config.fieldW (-(v : Int)) else BitVec.ofInt Config.fieldW (v : Int)

/-- DECODE (R160), its checks in the order of R161. -/
def decodeToken (P : Params) (t : List Byte) : DecodeResult :=
  match findPoint t with
  | none => .error .notDecimal
  | some p =>
    if p = 0 then .error .notDecimal
    else if P.intMaxChars < p - (if hasSign t then 1 else 0) then .error .tokenTooLong
    else
      .value (signedMilli (isNegative t)
        (scan true (slice t 0 p) * P.scale +
          scan false (norm3 P (slice t (p + 1) t.length))))

/-- DECODE on its own: no state of the block is read or written (R160); its result is handed back. -/
def execDecode (token : List Byte) (s : State) : Host.Outcome State Fault Refusal :=
  .next (s.returned (.decoded (decodeToken Config.hw token)))

/-- NORM3 on its own (R167). -/
def execNorm3 (fp : List Byte) (s : State) : Host.Outcome State Fault Refusal :=
  .next (s.returned (.bytes (norm3 Config.hw fp)))

/-- SCAN on its own (R168, R169). -/
def execScan (signAllowed : Bool) (str : List Byte) (s : State) :
    Host.Outcome State Fault Refusal :=
  .next (s.returned (.magnitude (scan signAllowed str)))

end Sys2Proof.Machine
end

