-- ==== Sys2Proof/Machine/Tokenizer.lean ====
section
/-! DEFINITION. The LineTokenizer: TOKENIZE with its three structural checks, the split, and the
decode-and-write loop under either commit policy (41_line_tokenizer.md R140 to R149). -/

namespace Sys2Proof.Machine

/-- The indices of the tabs of a line, ascending (R140). -/
def tabIndices (l : List Byte) : List Nat :=
  (List.range l.length).filter fun i => isTab (byteAt l i)

/-- The substrings between the tab boundaries: `L[t_(k-1)+1 .. t_k)` with `t_(-1) = -1` and the line's
length after the last tab (R144, 30_encoding.md R86). -/
def fieldTokens (l : List Byte) : List (List Byte) :=
  List.zipWith (slice l) (0 :: (tabIndices l).map (· + 1)) (tabIndices l ++ [l.length])

/-- The loop of R140: decode the fields in order, writing each as it succeeds, and stop at the first
that fails (R145, R146). -/
def decodeFields (P : Params) : List (Field × List Byte) → Regs → Regs × TokenizeResult
  | [], x => (x, .ok)
  | (k, t) :: rest, x =>
    match decodeToken P t with
    | .error e => (x, .decodeFailure k e)
    | .value v => decodeFields P rest (x.set k v)

/-- The commit policy: PARTIAL keeps what was written before a failing field (R145, R146); ATOMIC
writes shadow values and commits them only when all five fields decode (R148). -/
def commitRegs (policy : CommitPolicy) (x : Regs) (r : Regs × TokenizeResult) :
    Regs × TokenizeResult :=
  match policy with
  | .partialWrite => r
  | .atomic => if r.2 = .ok then r else (x, r.2)

/-- TOKENIZE (R140): the checks of R141, R142, R143 in that order, then the split and the loop. -/
def tokenizeLine (P : Params) (l : List Byte) (x : Regs) : Regs × TokenizeResult :=
  if l.length < P.minLineLen then (x, .tooShort)
  else if (tabIndices l).head? = some 0 then (x, .tooShort)
  else if (tabIndices l).length ≠ Config.nTabs then (x, .fieldCountMismatch)
  else commitRegs P.commitPolicy x (decodeFields P (fieldOrder.zip (fieldTokens l)) x)

/-- TOKENIZE on its own: it writes `x` and no other state of the block (R140); what it returns is
handed back, not reported (LINE_COMPLETE reports it, R126). -/
def execTokenize (s : State) : Host.Outcome State Fault Refusal :=
  let r := tokenizeLine Config.hw (lineBytes s.block) s.block.x
  .next ((s.commit ({ s.block with x := r.1 }, [])).returned (.tokenized r.2))

end Sys2Proof.Machine
end

