-- ==== Sys2Proof/Machine/Assembler.lean ====
section
/-! DEFINITION. The LineAssembler: APPEND with its overflow and drop cases, LINE_COMPLETE, the dispatch
of one input byte (40_line_assembler.md R122 to R127), and the BYTE rows and INTERNAL rows that run
them. -/

namespace Sys2Proof.Machine

/-- APPEND's ordinary case, when the length is below LINE_CAP (R123). -/
def storeByte (b : Byte) (m : Block) (h : m.len.val < Config.lineCap) : Block :=
  { m with buf := m.buf.write m.len.val b, len := ⟨m.len.val + 1, Nat.succ_lt_succ h⟩ }

/-- APPEND: dropped while `ovf` (R125); stored below LINE_CAP (R123); at LINE_CAP the overflow case,
reported once (R124). -/
def appendByte (b : Byte) (m : Block) : Block × List Output :=
  if m.ovf then (m, [])
  else if h : m.len.val < Config.lineCap then (storeByte b m h, [])
  else (setOvf true m, report .bufferOverflow)

/-- The end of an overflowed line.  DISCARD_LINE, OVERFLOW_POLICY's one value: the bytes held are
thrown away unparsed, nothing is reported (R127). -/
def overflowedLine (policy : OverflowPolicy) (m : Block) : Block × List Output :=
  match policy with
  | .discardLine => (setOvf false (clearLine m), [])

/-- LINE_COMPLETE: an overflowed line is rejected as a whole (R127); any other is tokenized, and the
buffer is cleared whatever came of it (R126). -/
def completeLine (P : Params) (m : Block) : Block × List Output :=
  if m.ovf then overflowedLine P.overflowPolicy m
  else
    let r := tokenizeLine P (lineBytes m) m.x
    (clearLine { m with x := r.1 }, reportResult r.2)

/-- FEED's dispatch of one byte (R122). -/
def feedByte (P : Params) (b : Byte) (m : Block) : Block × List Output :=
  if isTerminator b then completeLine P m else appendByte b m

/-- FEED.LF (R126, R127). -/
def execFeedLf (s : State) : Host.Outcome State Fault Refusal :=
  .next (s.commit (completeLine Config.hw s.block))

/-- FEED.CR (R126, R127). -/
def execFeedCr (s : State) : Host.Outcome State Fault Refusal :=
  .next (s.commit (completeLine Config.hw s.block))

/-- FEED.APPEND (R123, R124, R125). -/
def execFeedAppend (b : Byte) (s : State) : Host.Outcome State Fault Refusal :=
  .next (s.commit (appendByte b s.block))

/-- LINE_COMPLETE (R126, R127). -/
def execLineComplete (s : State) : Host.Outcome State Fault Refusal :=
  .next (s.commit (completeLine Config.hw s.block))

/-- APPEND (R123, R124, R125). -/
def execAppend (b : Byte) (s : State) : Host.Outcome State Fault Refusal :=
  .next (s.commit (appendByte b s.block))

end Sys2Proof.Machine
end

