-- ==== Sys2Proof/Machine/Chars.lean ====
section
/-! DEFINITION. The CHAR rows: what the tokenizer and the decoder do as they come to one byte of a line
(30_encoding.md R83, R84; 42_fixed_point_decoder.md R162 to R171), over the scratch values of R36.

DEDUCED, log 11: the spec gives TOKENIZE and DECODE whole; a CHAR row run on its own is one byte of
them.  The integer part is scanned as it arrives (R168), the first FRAC_DIGITS bytes of the fraction
after it (R167, R169), and the checks of R163, R164, R166 are made when the token ends. -/

namespace Sys2Proof.Machine

/-- A byte of the integer part that stops the scanner (R168). -/
def stopInt (t : TokenScan) : TokenScan := { t with intStop := true, seen := t.seen + 1 }

/-- A digit of the integer part: accumulated unless the scan has stopped (R168). -/
def digitInt (d : Nat) (t : TokenScan) : TokenScan :=
  if t.intStop then { t with seen := t.seen + 1 }
  else { t with intMag := t.intMag * 10 + d, seen := t.seen + 1 }

/-- A non-digit of the fraction: it stops the scan if it is among the bytes kept (R167, R169). -/
def stopFrac (P : Params) (t : TokenScan) : TokenScan :=
  if t.kept < P.fracDigits then { t with fracStop := true, kept := t.kept + 1, seen := t.seen + 1 }
  else { t with seen := t.seen + 1 }

/-- A digit of the fraction: accumulated if it is among the bytes kept and the scan has not stopped
(R167, R169). -/
def digitFrac (P : Params) (d : Nat) (t : TokenScan) : TokenScan :=
  if t.kept < P.fracDigits then
    (if t.fracStop then { t with kept := t.kept + 1, seen := t.seen + 1 }
     else { t with fracMag := t.fracMag * 10 + d, kept := t.kept + 1, seen := t.seen + 1 })
  else { t with seen := t.seen + 1 }

/-- A byte that stops the scanner, in whichever part of the token it stands (R168, R169). -/
def seeOther (P : Params) (t : TokenScan) : TokenScan :=
  if t.point.isSome then stopFrac P t else stopInt t

/-- A digit (R168, R169). -/
def seeDigit (P : Params) (d : Nat) (t : TokenScan) : TokenScan :=
  if t.point.isSome then digitFrac P d t else digitInt d t

/-- A POINT: the first one splits the token; a later one acts as OTHER (R162, R84). -/
def seePoint (P : Params) (t : TokenScan) : TokenScan :=
  if t.point.isSome then seeOther P t else { t with point := some t.seen, seen := t.seen + 1 }

/-- A PLUS or a MINUS: at index 0 the sign, which the scanner skips (R165, R168); elsewhere OTHER
(R84). -/
def seeSign (P : Params) (neg : Bool) (t : TokenScan) : TokenScan :=
  if t.seen = 0 then { t with signed := true, neg := neg, seen := 1 } else seeOther P t

/-- `F` when the token ends: the kept digits, padded with '0' to FRAC_DIGITS unless a non-digit came
before the pad (R167, R169). -/
def fracMagnitude (P : Params) (t : TokenScan) : Nat :=
  if t.fracStop then t.fracMag else t.fracMag * 10 ^ (P.fracDigits - t.kept)

/-- The result of a token whose bytes have all been seen: the checks in the order of R161, then the
value of R171. -/
def finishToken (P : Params) (t : TokenScan) : DecodeResult :=
  match t.point with
  | none => .error .notDecimal
  | some p =>
    if p = 0 then .error .notDecimal
    else if P.intMaxChars < p - (if t.signed then 1 else 0) then .error .tokenTooLong
    else .value (signedMilli t.neg (t.intMag * P.scale + fracMagnitude P t))

/-- CH.TAB: the separator ends one field and begins the next (R83, R143, R144).  Of the CHAR rows it
alone begins a new token.  No CHAR row ends a line (R83, R84 have none for a terminator), so a line's last token
stays in `scratch.tok` and its closed fields in `scratch.closed`, and CHAR rows run after it go on from
there, until RESET: DESIGN CHOICE, log 23. -/
def execChTab (s : State) : Host.Outcome State Fault Refusal :=
  .next { s with scratch :=
    { s.scratch with
      closed := s.scratch.closed ++ [finishToken Config.hw s.scratch.tok], tok := TokenScan.start } }

/-- CH.POINT (R162). -/
def execChPoint (s : State) : Host.Outcome State Fault Refusal :=
  .next (s.setTok (seePoint Config.hw s.scratch.tok))

/-- CH.PLUS (R168). -/
def execChPlus (s : State) : Host.Outcome State Fault Refusal :=
  .next (s.setTok (seeSign Config.hw false s.scratch.tok))

/-- CH.MINUS (R165, R168). -/
def execChMinus (s : State) : Host.Outcome State Fault Refusal :=
  .next (s.setTok (seeSign Config.hw true s.scratch.tok))

/-- CH.DIGIT_0_7: the digit value is the low three bits (R168, R85). -/
def execChDigit07 (d : BitVec 3) (s : State) : Host.Outcome State Fault Refusal :=
  .next (s.setTok (seeDigit Config.hw d.toNat s.scratch.tok))

/-- CH.DIGIT_8_9: the digit value is 8 plus the low bit (R168, R85). -/
def execChDigit89 (d : BitVec 1) (s : State) : Host.Outcome State Fault Refusal :=
  .next (s.setTok (seeDigit Config.hw (8 + d.toNat) s.scratch.tok))

/-- CH.OTHER: whichever byte it is, it stops the scanner (R168). -/
def execChOther (_c : Byte) (s : State) : Host.Outcome State Fault Refusal :=
  .next (s.setTok (seeOther Config.hw s.scratch.tok))

end Sys2Proof.Machine
end

