-- ==== Sys2Proof/Machine/Diagnostics.lean ====
section
/-! DEFINITION. The DIAG rows: the record with that code is handed to the diagnostics sink
(60_exceptions.md R250, R251, R265), over the one operation `report`. -/

namespace Sys2Proof.Machine

/-- DIAG.NONE: code 0 is never emitted, it is the idle value of the port: nothing is handed over
(R250; log 14). -/
def execDiagNone (s : State) : Host.Outcome State Fault Refusal := .next (s.hand [])

/-- DIAG.BUFFER_OVERFLOW (R241). -/
def execDiagBufferOverflow (s : State) : Host.Outcome State Fault Refusal :=
  .next (s.hand (report .bufferOverflow))

/-- DIAG.TOO_SHORT (R242). -/
def execDiagTooShort (s : State) : Host.Outcome State Fault Refusal :=
  .next (s.hand (report .tooShort))

/-- DIAG.FIELD_COUNT_MISMATCH (R243). -/
def execDiagFieldCountMismatch (s : State) : Host.Outcome State Fault Refusal :=
  .next (s.hand (report .fieldCountMismatch))

/-- DIAG.DECODE_FAILURE.NOT_DECIMAL (R244, R246). -/
def execDiagNotDecimal (k : Field) (s : State) : Host.Outcome State Fault Refusal :=
  .next (s.hand (report (.decodeFailure k .notDecimal)))

/-- DIAG.DECODE_FAILURE.TOKEN_TOO_LONG (R245, R246). -/
def execDiagTokenTooLong (k : Field) (s : State) : Host.Outcome State Fault Refusal :=
  .next (s.hand (report (.decodeFailure k .tokenTooLong)))

/-- DIAG.TRANSMIT_FAILURE (R247 with ok = 0). -/
def execDiagTransmitFailure (f : FrameKind) (s : State) : Host.Outcome State Fault Refusal :=
  .next (s.hand (report (.txStatus f false)))

/-- DIAG.TRANSMIT_OK (R247 with ok = 1). -/
def execDiagTransmitOk (f : FrameKind) (s : State) : Host.Outcome State Fault Refusal :=
  .next (s.hand (report (.txStatus f true)))

/-- DIAG.UNUSED: codes 8 to 15 are never emitted: nothing is handed over (R250; log 14). -/
def execDiagUnused (_low : BitVec 3) (s : State) : Host.Outcome State Fault Refusal :=
  .next (s.hand [])

end Sys2Proof.Machine
end

