-- ==== Sys2Proof/Machine/Scheduler.lean ====
section
/-! DEFINITION. The TransmitScheduler: the two frames, SCHED.FULL, SCHED.ENERGY, SCHED.IDLE and the
decision of a POLL (44_transmit_scheduler.md R201 to R208), and the rows that run them. -/

namespace Sys2Proof.Machine

/-- The fields a frame carries, serialised one after the other (R203, 20_memory.md R53). -/
def payloadOf (fields : List Field) (x : Regs) : List Byte := fields.flatMap fun k => le32 (x.get k)

/-- Frame A (R89, R203). -/
def fullFrame (P : Params) (m : Block) : Frame :=
  { id := P.idFull, len := P.lenFull, payload := payloadOf P.txFull m.x }

/-- Frame B (R89, R204). -/
def energyFrame (P : Params) (m : Block) : Frame :=
  { id := P.idEnergy, len := P.lenEnergy, payload := payloadOf P.txEnergy m.x }

/-- SCHED.FULL(now, tx_ok): send Frame A, move the baseline to the tick read, clear `energySent`,
report the status; all of it whatever the status is (R203, R208). -/
def schedFull (P : Params) (now : TickWord) (txOk : Bool) (m : Block) :
    Block × List Output :=
  (setEnergySent false { m with base := now },
    send (fullFrame P m) ++ report (.txStatus .full txOk))

/-- SCHED.ENERGY(tx_ok): send Frame B, set `energySent`, report the status (R204, R208). -/
def schedEnergy (P : Params) (txOk : Bool) (m : Block) : Block × List Output :=
  (setEnergySent true m, send (energyFrame P m) ++ report (.txStatus .energy txOk))

/-- SCHED.IDLE: no state changes, nothing is sent, nothing is reported (R207). -/
def schedIdle (m : Block) : Block × List Output := (m, [])

/-- POLL(tx_ok): `tick` is read once, and the first of the two conditions that holds is taken
(R202). -/
def pollBlock (P : Params) (txOk : Bool) (m : Block) : Block × List Output :=
  let now := m.tick
  if fullDue P now m then schedFull P now txOk m
  else if energyDue P now m then schedEnergy P txOk m
  else schedIdle m

/-- SCHED.FULL, with `now` the tick it reads (R203). -/
def execSchedFull (txOk : Bool) (s : State) : Host.Outcome State Fault Refusal :=
  .next (s.commit (schedFull Config.hw s.block.tick txOk s.block))

/-- SCHED.ENERGY (R204). -/
def execSchedEnergy (txOk : Bool) (s : State) : Host.Outcome State Fault Refusal :=
  .next (s.commit (schedEnergy Config.hw txOk s.block))

/-- SCHED.IDLE (R207). -/
def execSchedIdle (s : State) : Host.Outcome State Fault Refusal :=
  .next (s.commit (schedIdle s.block))

end Sys2Proof.Machine
end

