-- ==== Sys2Proof/Machine/Events.lean ====
section
/-! DEFINITION. The four events (45_top_level_events.md R220 to R225). -/

namespace Sys2Proof.Machine

/-- TICK: `tick <- (tick + 1) mod 2^32` and nothing else (R221). -/
def tickBlock (m : Block) : Block := { m with tick := m.tick + 1 }

/-- RESET (R280): the block's reset values.  Nothing is sent or reported; what has been presented and
handed over stands, and the model's scratch starts anew (log 5). -/
def execReset (s : State) : Host.Outcome State Fault Refusal :=
  .next { s with block := Block.reset, scratch := Scratch.start }

/-- TICK (R221). -/
def execTick (s : State) : Host.Outcome State Fault Refusal :=
  .next (s.commit (tickBlock s.block, []))

/-- FEED(b) (R222, R122). -/
def execFeed (b : Byte) (s : State) : Host.Outcome State Fault Refusal :=
  .next (s.commit (feedByte Config.hw b s.block))

/-- POLL(tx_ok) (R223, R202). -/
def execPoll (txOk : Bool) (s : State) : Host.Outcome State Fault Refusal :=
  .next (s.commit (pollBlock Config.hw txOk s.block))

end Sys2Proof.Machine
end

