-- ==== Sys2Proof/Machine/Frames.lean ====
section
/-! DEFINITION. The FRAME rows: the frame with that identifier is handed to the transmitter
(30_encoding.md R89, 44_transmit_scheduler.md R203, R204).  What SCHED.FULL and SCHED.ENERGY do beside
the send is theirs (log 13). -/

namespace Sys2Proof.Machine

/-- TX.FULL: `send(0x700, 8, LE32(x[1]) ++ LE32(x[2]))` (R203). -/
def execTxFull (s : State) : Host.Outcome State Fault Refusal :=
  .next (s.hand (send (fullFrame Config.hw s.block)))

/-- TX.ENERGY: `send(0x702, 4, LE32(x[0]))` (R204). -/
def execTxEnergy (s : State) : Host.Outcome State Fault Refusal :=
  .next (s.hand (send (energyFrame Config.hw s.block)))

end Sys2Proof.Machine
end

