-- ==== Sys2Proof/Machine/RegFile.lean ====
section
/-! DEFINITION. The TelemetryState register file (43_telemetry_regfile.md): WRITE_FIELD.  Its reads are
`Regs.get` (the scheduler, R192) and Ports.lean (the read port, R193). -/

namespace Sys2Proof.Machine

/-- WRITE_FIELD(k, v): `x[k] <- v`, no range check, the other four unchanged (R191). -/
def writeField (k : Field) (v : FieldWord) (m : Block) : Block := { m with x := m.x.set k v }

/-- WRITE_FIELD (R191). -/
def execWriteField (k : Field) (v : FieldWord) (s : State) : Host.Outcome State Fault Refusal :=
  .next (s.commit (writeField k v s.block, []))

end Sys2Proof.Machine
end

