-- ==== Sys2Proof/Machine/Dispatch.lean ====
section
/-! DEFINITION. One arm per constructor of `Instr`, each one call of its meaning. -/

namespace Sys2Proof.Machine

def exec (i : Instr) (s : State) : Host.Outcome State Fault Refusal :=
  match i with
  -- BYTE
  | .feedLf => Sys2Proof.Machine.execFeedLf s
  | .feedCr => Sys2Proof.Machine.execFeedCr s
  | .feedAppend b => Sys2Proof.Machine.execFeedAppend b s
  -- CHAR
  | .chTab => Sys2Proof.Machine.execChTab s
  | .chPoint => Sys2Proof.Machine.execChPoint s
  | .chPlus => Sys2Proof.Machine.execChPlus s
  | .chMinus => Sys2Proof.Machine.execChMinus s
  | .chDigit07 d => Sys2Proof.Machine.execChDigit07 d s
  | .chDigit89 d => Sys2Proof.Machine.execChDigit89 d s
  | .chOther c => Sys2Proof.Machine.execChOther c s
  -- EVENT
  | .reset => Sys2Proof.Machine.execReset s
  | .tick => Sys2Proof.Machine.execTick s
  | .feed b => Sys2Proof.Machine.execFeed b s
  | .poll txOk => Sys2Proof.Machine.execPoll txOk s
  -- INTERNAL
  | .lineComplete => Sys2Proof.Machine.execLineComplete s
  | .append b => Sys2Proof.Machine.execAppend b s
  | .tokenize => Sys2Proof.Machine.execTokenize s
  | .decode token => Sys2Proof.Machine.execDecode token s
  | .norm3 fp => Sys2Proof.Machine.execNorm3 fp s
  | .scan signAllowed str => Sys2Proof.Machine.execScan signAllowed str s
  | .writeField k v => Sys2Proof.Machine.execWriteField k v s
  | .schedFull txOk => Sys2Proof.Machine.execSchedFull txOk s
  | .schedEnergy txOk => Sys2Proof.Machine.execSchedEnergy txOk s
  | .schedIdle => Sys2Proof.Machine.execSchedIdle s
  -- FRAME
  | .txFull => Sys2Proof.Machine.execTxFull s
  | .txEnergy => Sys2Proof.Machine.execTxEnergy s
  -- DIAG
  | .diagNone => Sys2Proof.Machine.execDiagNone s
  | .diagBufferOverflow => Sys2Proof.Machine.execDiagBufferOverflow s
  | .diagTooShort => Sys2Proof.Machine.execDiagTooShort s
  | .diagFieldCountMismatch => Sys2Proof.Machine.execDiagFieldCountMismatch s
  | .diagNotDecimal k => Sys2Proof.Machine.execDiagNotDecimal k s
  | .diagTokenTooLong k => Sys2Proof.Machine.execDiagTokenTooLong k s
  | .diagTransmitFailure f => Sys2Proof.Machine.execDiagTransmitFailure f s
  | .diagTransmitOk f => Sys2Proof.Machine.execDiagTransmitOk f s
  | .diagUnused low => Sys2Proof.Machine.execDiagUnused low s

end Sys2Proof.Machine
end

