-- ==== Sys2Proof/Machine/Fetch.lean ====
section
/-! DEFINITION. What a step runs next.  The block fetches nothing (10_state.md R33): what it does next
is what the environment presents (30_encoding.md R90), the first entry of the inbox. -/

namespace Sys2Proof.Machine

/-- What the inbox gives a step. -/
inductive Fetched where
  /-- no event: the inbox is empty, the cycle's vector is 0000 (R90), or no row matches the word (log
  8); with the state after it -/
  | idle (s : State)
  /-- an instruction, with the state it runs in: the inbox moved past it -/
  | run (i : Instr) (s : State)
  deriving DecidableEq, Repr

/-- A cycle gives its first event; the rest of the cycle stays first in the inbox (R258). -/
def fetchCycle (c : Cycle) (rest : List Entry) (s : State) : Fetched :=
  match c.firstEvent with
  | none => .idle { s with inbox := rest }
  | some i => .run i { s with inbox := c.remainder.map Entry.cycle ++ rest }

/-- A row's word gives the instruction the decoder reads, the other events of an EVENT word staying first
in the inbox.  A word that no row matches is no event, as the vector 0000 is (R90; log 8). -/
def fetchWord (f : Format) (bs : List Byte) (rest : List Entry) (s : State) : Fetched :=
  match decode f bs with
  | .error _ => .idle { s with inbox := rest }
  | .ok i => .run i { s with inbox := (eventsAfter f bs).map Entry.cycle ++ rest }

/-- The next entry of the inbox; an empty inbox is no event (R67, R90). -/
def fetch (s : State) : Fetched :=
  match s.inbox with
  | [] => .idle s
  | .cycle c :: rest => fetchCycle c rest s
  | .word f bs :: rest => fetchWord f bs rest s

/-- The inbox entry that presents a table word. -/
def tableEntry (nbits w : Nat) : Entry :=
  let f := tableFormat nbits w
  .word f (tableBytes f w)

end Sys2Proof.Machine
end

