-- ==== Sys2Proof/Machine/Step.lean ====
section
/-! DEFINITION. One step: one event of what the environment presents, run to its end (00_scope.md R15,
45_top_level_events.md R225). -/

namespace Sys2Proof.Machine

/-- One step.  No event leaves the block as it is (R90); an event answers what `exec` answers. -/
def step (s : State) : Host.Outcome State Fault Refusal :=
  match fetch s with
  | .idle s' => .next s'
  | .run i s' => exec i s'

/-- The state with a table word presented next (log 6). -/
def State.withFetchWord (s : State) (nbits w : Nat) : State :=
  { s with inbox := tableEntry nbits w :: s.inbox }

end Sys2Proof.Machine
end

