-- ==== Sys2Proof/Machine/Ports.lean ====
section
/-! DEFINITION. The outputs as the ports carry them: the codes of the records (60_exceptions.md R250),
the transmit port (20_memory.md R55, 60_exceptions.md R264), the diagnostics port (R265) and the
register read port (43_telemetry_regfile.md R193). -/

namespace Sys2Proof.Machine

/-- diag_code (R250). -/
def diagCode : Diag → BitVec 4
  | .bufferOverflow => 1
  | .tooShort => 2
  | .fieldCountMismatch => 3
  | .decodeFailure _ .notDecimal => 4
  | .decodeFailure _ .tokenTooLong => 5
  | .txStatus _ false => 6
  | .txStatus _ true => 7

/-- diag_aux (R250). -/
def diagAux : Diag → BitVec 4
  | .bufferOverflow => 0
  | .tooShort => 0
  | .fieldCountMismatch => 0
  | .decodeFailure k _ => BitVec.ofNat 4 (fieldIndex k)
  | .txStatus f _ => (frameBit f).truncate 4

/-- The record `{code[3:0], aux[3:0]}` (30_encoding.md R91). -/
def diagRecord (d : Diag) : BitVec 8 := diagCode d ++ diagAux d

/-- tx_data: payload byte `i` in bits 8i+7..8i, unused lanes zero (R55). -/
def txData (f : Frame) : BitVec 64 :=
  byteAt f.payload 7 ++ byteAt f.payload 6 ++ byteAt f.payload 5 ++ byteAt f.payload 4 ++
    byteAt f.payload 3 ++ byteAt f.payload 2 ++ byteAt f.payload 1 ++ byteAt f.payload 0

/-- The lanes of the transmit port beside `tx_valid` (R264). -/
structure TxLanes where
  txId : FrameId
  txLen : BitVec 4
  txData : BitVec 64
  deriving DecidableEq, Repr

/-- The output ports in the cycle of one event (R264 to R266). -/
structure Ports where
  txValid : Bool
  tx : TxLanes
  diagValid : Bool
  diagCode : BitVec 4
  diagAux : BitVec 4
  deriving DecidableEq, Repr

/-- The ports when nothing is handed over.  Code 0 with aux 0 is the idle value of the diagnostics port
(R250).  What `tx_id`, `tx_len` and `tx_data` carry while `tx_valid` = 0 the spec does not say: `idle`
stands for it, any value in any cycle (DESIGN CHOICE, log 22). -/
def idlePorts (idle : TxLanes) : Ports :=
  { txValid := false, tx := idle, diagValid := false, diagCode := 0, diagAux := 0 }

/-- The lanes of a frame that is sent (R264). -/
def frameLanes (f : Frame) : TxLanes :=
  { txId := f.id, txLen := BitVec.ofNat 4 f.len, txData := txData f }

/-- What one thing handed over puts on its port. -/
def drivePort (p : Ports) : Output → Ports
  | .frame f => { p with txValid := true, tx := frameLanes f }
  | .diag d => { p with diagValid := true, diagCode := diagCode d, diagAux := diagAux d }

/-- The ports in the cycle of an event that handed over `o` (at most one frame and one record, R253,
R264, R265; log 21), `idle` being what the transmit lanes carry when it sent none (log 22). -/
def portsOf (idle : TxLanes) (o : List Output) : Ports := o.foldl drivePort (idlePorts idle)

/-- The register read port: tel_charge, tel_voltage, tel_current, tel_speed, tel_distance, each
continuously equal to its register (R193). -/
def telPort (m : Block) (k : Field) : FieldWord := m.x.get k

end Sys2Proof.Machine
end

