-- ==== Sys2Proof/Safety.lean ====
section
/-! DEFINITION. The terms claims use: the invariants of 10_state.md R40, when an inbox is the
hardware's, and running a list of instructions one after another. -/

namespace Sys2Proof.Machine

/-- R40, the line: the memory is canonical and inside 0..127, `ovf` = 1 implies `len` = LINE_CAP, and
no valid byte is a terminator.  (That `len` is at most LINE_CAP is in its type.) -/
abbrev LineInv (m : Block) : Prop :=
  m.buf.wf = true ∧ (m.ovf = true → m.len.val = Config.lineCap) ∧
    ∀ b ∈ lineBytes m, isTerminator b = false

/-- R25, R40, the registers: -9 999 999 <= `x[k]` <= 9 999 999 for each `k`. -/
abbrev RegsInRange (x : Regs) : Prop :=
  ∀ k ∈ fieldOrder, -9999999 ≤ (x.get k).toInt ∧ (x.get k).toInt ≤ 9999999

/-- The entry is a clock cycle of the hardware's inputs, not a row's word of the model's (log 8). -/
def Entry.isCycle : Entry → Bool
  | .cycle _ => true
  | .word _ _ => false

/-- The environment presents nothing but clock cycles: the hardware's own inputs. -/
abbrev External (s : State) : Prop := ∀ e ∈ s.inbox, e.isCycle = true

/-- Run instructions one after another, stopping at the first that answers no next state. -/
def execAll : List Instr → State → Host.Outcome State Fault Refusal
  | [], s => .next s
  | i :: rest, s =>
    match exec i s with
    | .next t => execAll rest t
    | .fault r => .fault r
    | .refused r => .refused r

/-- The inbox of an environment that feeds a byte string and nothing else: one FEED a cycle (R90). -/
def feedCycle (b : Byte) : Cycle :=
  { rst := false, tickInc := false, rxValid := true, rxData := b, poll := false, txOk := false }

/-- `n` times a TICK and then a POLL, each POLL's status from the list, false where it ends: the
premise of R209, "a POLL after every TICK". -/
def tickPolls : Nat → List Bool → List Instr
  | 0, _ => []
  | n + 1, oks => .tick :: .poll (oks.headD false) :: tickPolls n oks.tail

end Sys2Proof.Machine
end

