-- ==== Sys2Proof/Certificates/Slice0/Obligations.lean ====
section
/-! DEFINITION. The statements for the provers, each from the numbered rules of spec/ it names. -/

open Sys2Proof Sys2Proof.Machine

/-! ### Encodings -/

/-- Decode and encode agree: every well-formed instruction, with every operand at every value the
encoding admits, decodes back from its own word (R80 to R92). -/
def Obligations.DecodeOfEncodeIsTheInstruction : Prop :=
  ∀ i : Instr, wellFormed i = true → decode (encode i).1 (encode i).2 = .ok i

/-- Every byte is the word of exactly one BYTE row and of exactly one CHAR row: each of the 256 values
decodes, and its instruction encodes back to it (R81, R83, R84, R93). -/
def Obligations.EveryByteIsOneByteRowAndOneCharRow : Prop :=
  ∀ b : Byte,
    (∃ i, decode .byte [b] = .ok i ∧ encode i = (.byte, [b])) ∧
    (∃ i, decode .char [b] = .ok i ∧ encode i = (.char, [b]))

/-- A few words, their vector, ordinal, identifier, code or byte written out from the spec's tables,
decode to the instructions they stand for: a sanity statement.  That `tx_ok` stands in byte 2 of an EVENT
word, the low byte of an identifier first and aux in byte 1 of a DIAG word is the model's choice, log
9. -/
def Obligations.SampleWordsDecodeAsTheTablesSay : Prop :=
  decode .byte [0b00001010] = .ok .feedLf ∧
  decode .char [0b00110111] = .ok (.chDigit07 7) ∧
  decode .event [0b0100] = .ok .tick ∧
  decode .event [0b0001, 0, 1] = .ok (.poll true) ∧
  decode .internal [0x2] = .ok .tokenize ∧
  decode .frame [0x02, 0x07] = .ok .txEnergy ∧
  decode .diag [0b0100, 2] = .ok (.diagNotDecimal .current)

/-! ### Steps -/

/-- A step runs the decoded instruction: when the inbox's next entry is a word that decodes to `i`,
step is `exec i` with the inbox moved past the word, the other events of an EVENT word of several strobes
staying first in it (the model's own form of fetching: logs 1, 7, 8 and 9). -/
def Obligations.StepRunsTheDecodedWord : Prop :=
  ∀ (s : State) (f : Format) (bs : List Byte) (rest : List Entry) (i : Instr),
    s.inbox = .word f bs :: rest → decode f bs = .ok i →
    step s = exec i { s with inbox := (eventsAfter f bs).map Entry.cycle ++ rest } ∧
    (f ≠ .event → step s = exec i { s with inbox := rest })

/-- A word that no row of its format matches is no event: it only passes, as the vector 0000 does (R90;
for any other such word the model's choice, log 8).  So every state has a next state (R225, R229): no
step faults or is refused. -/
def Obligations.EveryStateHasANextState : Prop :=
  (∀ (s : State) (f : Format) (bs : List Byte) (rest : List Entry) (why : Reject),
    s.inbox = .word f bs :: rest → decode f bs = .error why →
    step s = .next { s with inbox := rest }) ∧
  ∀ s : State, ∃ t, step s = .next t

/-- An EVENT word is its clock cycle: a step from either answers the same state, so every strobe of the
word's vector has its event (R90, R258; the word's layout is log 9's). -/
def Obligations.EventWordIsItsCycle : Prop :=
  ∀ (s : State) (bs : List Byte) (c : Cycle) (rest : List Entry), Cycle.ofBytes bs = some c →
    tailIsZero 3 bs = true →
    step { s with inbox := .word .event bs :: rest } =
      step { s with inbox := .cycle c :: rest }

/-- A clock cycle of several strobes: `rst` wins alone; otherwise the events happen one after another
in the order TICK, FEED, POLL, as if they alone had been presented (R258; that each event takes a step
of its own is the model's reading, log 7). -/
def Obligations.CycleRunsTickThenFeedThenPoll : Prop :=
  ∀ (s : State) (c : Cycle) (rest : List Entry), s.inbox = .cycle c :: rest →
    (c.rst = true → step s = exec .reset { s with inbox := rest }) ∧
    (c.rst = false →
      let es := (if c.tickInc then [Instr.tick] else []) ++
        (if c.rxValid then [Instr.feed c.rxData] else []) ++
        (if c.poll then [Instr.poll c.txOk] else [])
      es ≠ [] →
      Host.Core.run Sys2Proof.core es.length s = execAll es { s with inbox := rest })

/-- No event changes nothing: a cycle whose vector is 0000 only passes, and with nothing presented a
step leaves the state as it is (R90, R67). -/
def Obligations.NoEventChangesNothing : Prop :=
  ∀ s : State,
    (s.inbox = [] → step s = .next s) ∧
    (∀ (c : Cycle) (rest : List Entry), s.inbox = .cycle c :: rest →
      c.rst = false → c.tickInc = false → c.rxValid = false → c.poll = false →
      step s = .next { s with inbox := rest })

/-- The step function is total on the hardware's inputs: while the environment presents nothing but
clock cycles, every step answers a next state, and it still presents nothing but clock cycles
(R225). -/
def Obligations.HardwareInputsAlwaysStep : Prop :=
  ∀ s : State, External s → ∃ t, step s = .next t ∧ External t

/-- Every instruction completes, in every state: no table row faults or is refused (R226, R229); it
leaves the inbox alone, only adds to what was handed over, and adds at most one frame and at most one
record (R253, R265). -/
def Obligations.EveryInstructionCompletesAndOnlyAddsOutputs : Prop :=
  ∀ (i : Instr) (s : State), ∃ t o, exec i s = .next t ∧ t.inbox = s.inbox ∧
    t.trace = s.trace ++ o ∧
    (o.filter fun x => match x with | .frame _ => true | .diag _ => false).length ≤ 1 ∧
    (o.filter fun x => match x with | .diag _ => true | .frame _ => false).length ≤ 1

/-! ### RESET and TICK -/

/-- RESET: the registers, `len`, `ovf`, `tick`, `base` and `energySent` become 0; nothing is sent and
nothing is reported (R280).  That what is presented next stands is the model's choice, log 5. -/
def Obligations.ResetClearsTheBlock : Prop :=
  ∀ s : State, ∃ t, exec .reset s = .next t ∧
    (∀ k, t.block.x.get k = 0) ∧ t.block.len = 0 ∧ t.block.ovf = false ∧
    t.block.tick = 0 ∧ t.block.base = 0 ∧ t.block.energySent = false ∧
    t.trace = s.trace ∧ t.inbox = s.inbox

/-- The state right after reset holds the values R39 gives and meets the invariants of R40; nothing is
presented and nothing has been handed over (the model's choice, log 5). -/
def Obligations.ResetStateIsAtItsValuesAndInvariant : Prop :=
  State.reset.block.x = { charge := 0, voltage := 0, current := 0, speed := 0, distance := 0 } ∧
  State.reset.block.len = 0 ∧ State.reset.block.ovf = false ∧ State.reset.block.tick = 0 ∧
  State.reset.block.base = 0 ∧ State.reset.block.energySent = false ∧
  LineInv State.reset.block ∧ RegsInRange State.reset.block.x ∧ External State.reset ∧
  State.reset.inbox = [] ∧ State.reset.trace = []

/-- TICK adds exactly one, modulo 2^32, and does nothing else (R221). -/
def Obligations.TickAddsOneModulo : Prop :=
  ∀ s : State,
    exec .tick s = .next { s with block := { s.block with tick := s.block.tick + 1 } } ∧
    (s.block.tick + 1).toNat = (s.block.tick.toNat + 1) % 2 ^ 32 ∧
    (s.block.tick = 0xFFFFFFFF → s.block.tick + 1 = 0)

/-! ### The LineAssembler -/

/-- FEED's dispatch of one byte: the four cases (R122). -/
def Obligations.FeedDispatchesOnTheByte : Prop :=
  ∀ (b : Byte) (s : State),
    ((b = 0x0A ∨ b = 0x0D) → exec (.feed b) s = exec .lineComplete s) ∧
    (b ≠ 0x0A → b ≠ 0x0D → s.block.ovf = true → exec (.feed b) s = .next s) ∧
    (b ≠ 0x0A → b ≠ 0x0D → s.block.ovf = false → s.block.len.val = 128 →
      exec (.feed b) s = .next { s with
        block := { s.block with ovf := true }, trace := s.trace ++ [.diag .bufferOverflow] }) ∧
    (b ≠ 0x0A → b ≠ 0x0D → s.block.ovf = false → s.block.len.val < 128 →
      exec (.feed b) s = exec (.append b) s)

/-- APPEND, the ordinary case, by FEED, FEED.APPEND or APPEND: the byte is stored at index `len`, every
other byte of the buffer reads as before, `len` goes up by one, and nothing else of the state changes
(R123). -/
def Obligations.AppendStoresTheByteAtLen : Prop :=
  ∀ (b : Byte) (s : State) (i : Instr),
    (i = .feed b ∨ i = .feedAppend b ∨ i = .append b) → b ≠ 0x0A → b ≠ 0x0D →
    s.block.buf.wf = true → s.block.ovf = false → s.block.len.val < 128 →
    ∃ t, exec i s = .next t ∧ t.block.len.val = s.block.len.val + 1 ∧
      (∀ a, t.block.buf.read a = if a = s.block.len.val then b else s.block.buf.read a) ∧
      t = { s with block := { s.block with buf := t.block.buf, len := t.block.len } }

/-- APPEND with the buffer full: `ovf` is set and one BufferOverflow is reported, the byte is lost and
nothing else changes; while `ovf` is set every data byte is dropped and nothing changes at all (R124,
R125). -/
def Obligations.FullBufferOverflowsOnceThenDrops : Prop :=
  ∀ (b : Byte) (s : State) (i : Instr),
    (i = .feed b ∨ i = .feedAppend b ∨ i = .append b) → b ≠ 0x0A → b ≠ 0x0D →
    (s.block.ovf = false → s.block.len.val = 128 →
      exec i s = .next { s with
        block := { s.block with ovf := true }, trace := s.trace ++ [.diag .bufferOverflow] }) ∧
    (s.block.ovf = true → exec i s = .next s)

/-- LINE_COMPLETE, the ordinary case, by either terminator: the line held is tokenized, `len` becomes 0
whatever came of it, and a result other than Ok is reported; nothing else changes (R126). -/
def Obligations.TerminatorTokenizesAndClearsTheLine : Prop :=
  ∀ (s : State) (i : Instr),
    (i = .feed 0x0A ∨ i = .feed 0x0D ∨ i = .feedLf ∨ i = .feedCr ∨ i = .lineComplete) →
    s.block.ovf = false →
    let r := tokenizeLine Config.hw (lineBytes s.block) s.block.x
    exec i s = .next { s with
      block := { s.block with x := r.1, len := 0 }
      trace := s.trace ++ (match r.2 with
        | .ok => []
        | .tooShort => [.diag .tooShort]
        | .fieldCountMismatch => [.diag .fieldCountMismatch]
        | .decodeFailure k e => [.diag (.decodeFailure k e)]) }

/-- LINE_COMPLETE, the overflowed case: `len` and `ovf` become 0, the registers stand, nothing is
tokenized and nothing is reported (R127). -/
def Obligations.OverflowedLineIsDiscardedUnparsed : Prop :=
  ∀ (s : State) (i : Instr),
    (i = .feed 0x0A ∨ i = .feed 0x0D ∨ i = .feedLf ∨ i = .feedCr ∨ i = .lineComplete) →
    s.block.ovf = true →
    exec i s = .next { s with block := { s.block with len := 0, ovf := false } }

/-- Consecutive terminators: an empty line gives one TooShort and changes nothing else; after whatever
the first terminator of a run did, each further one gives one TooShort more and changes nothing else
(R128, R99). -/
def Obligations.EachTerminatorMoreIsOneTooShort : Prop :=
  ∀ (s : State) (e : Byte) (es : List Byte), (∀ b ∈ e :: es, b = 0x0A ∨ b = 0x0D) →
    (s.block.ovf = false → s.block.len = 0 →
      exec (.feed e) s = .next { s with trace := s.trace ++ [.diag .tooShort] }) ∧
    ∃ t, exec (.feed e) s = .next t ∧
      execAll ((e :: es).map .feed) s =
        .next { t with trace := t.trace ++ List.replicate es.length (.diag .tooShort) }

/-- A whole line, byte by byte: the tokenizer is handed exactly the data bytes fed since the line
began, in order, when there are at most 128 (R130); the terminator then leaves what TOKENIZE makes of
that line, an empty buffer, and its report (R126). -/
def Obligations.FedLineIsTheLineTokenized : Prop :=
  ∀ (s : State) (l : List Byte) (e : Byte),
    s.block.buf.wf = true → s.block.len = 0 → s.block.ovf = false →
    l.length ≤ 128 → (∀ b ∈ l, b ≠ 0x0A ∧ b ≠ 0x0D) → (e = 0x0A ∨ e = 0x0D) →
    (∃ t, execAll (l.map .feed) s = .next t ∧ lineBytes t.block = l ∧
      t = { s with block := { s.block with buf := t.block.buf, len := t.block.len } }) ∧
    (∃ t, execAll ((l ++ [e]).map .feed) s = .next t ∧
      t = { s with
        block := { s.block with
          x := (tokenizeLine Config.hw l s.block.x).1, buf := t.block.buf }
        trace := s.trace ++ reportResult (tokenizeLine Config.hw l s.block.x).2 })

/-- An over-long line, byte by byte: 129 data bytes or more and a terminator change no register, leave
the buffer empty and `ovf` clear, and report exactly one BufferOverflow (R124, R125, R127). -/
def Obligations.OverlongLineIsRejectedWhole : Prop :=
  ∀ (s : State) (l : List Byte) (e : Byte),
    s.block.len = 0 → s.block.ovf = false →
    128 < l.length → (∀ b ∈ l, b ≠ 0x0A ∧ b ≠ 0x0D) → (e = 0x0A ∨ e = 0x0D) →
    ∃ t, execAll ((l ++ [e]).map .feed) s = .next t ∧
      t = { s with
        block := { s.block with buf := t.block.buf }
        trace := s.trace ++ [.diag .bufferOverflow] }

/-! ### The LineTokenizer -/

/-- The three structural checks, in their order: fewer than two bytes; a tab at index 0; a number of
tabs that is not four.  Each writes no register; TOKENIZE hands the result back (R141, R142, R143; in
the scratch: log 12). -/
def Obligations.StructuralChecksInOrder : Prop :=
  ∀ s : State,
    let l := lineBytes s.block
    (l.length < 2 → exec .tokenize s = .next (s.returned (.tokenized .tooShort))) ∧
    (2 ≤ l.length → l.head? = some 0x09 →
      exec .tokenize s = .next (s.returned (.tokenized .tooShort))) ∧
    (2 ≤ l.length → l.head? ≠ some 0x09 → l.count 0x09 ≠ 4 →
      exec .tokenize s = .next (s.returned (.tokenized .fieldCountMismatch)))

/-- The split: the fields are the stretches between the tabs.  There is one more of them than tabs,
none holds a tab, joined by single tabs they are the line, and their lengths and the tabs make up its
length.  The first one is not empty when the line does not begin with a tab (R86, R144). -/
def Obligations.FieldsAreTheStretchesBetweenTabs : Prop :=
  ∀ l : List Byte,
    (fieldTokens l).length = l.count 0x09 + 1 ∧
    (∀ t ∈ fieldTokens l, (0x09 : Byte) ∉ t) ∧
    List.intercalate [0x09] (fieldTokens l) = l ∧
    ((fieldTokens l).map List.length).sum + l.count 0x09 = l.length ∧
    (l ≠ [] → l.head? ≠ some 0x09 → (fieldTokens l).head? ≠ some [])

/-- PARTIAL: on a line that passes the checks, when field `k` is the first to fail, the registers
before it hold this line's values, it and those after keep their prior values, and the result is
DecodeFailure(k, e); when all five decode, the result is Ok and all five are written.  Nothing else of
the block changes (R145, R146, R149; the result in the scratch: log 12). -/
def Obligations.FieldsBeforeAFailureStayWritten : Prop :=
  ∀ s : State,
    let l := lineBytes s.block
    let tok : Field → List Byte := fun k => (fieldTokens l).getD (fieldIndex k) []
    2 ≤ l.length → l.head? ≠ some 0x09 → l.count 0x09 = 4 →
    (∀ (k : Field) (e : DecodeError) (v : Field → FieldWord),
      decodeToken Config.hw (tok k) = .error e →
      (∀ j, fieldIndex j < fieldIndex k → decodeToken Config.hw (tok j) = .value (v j)) →
      ∃ t, exec .tokenize s = .next t ∧
        (∀ j, fieldIndex j < fieldIndex k → t.block.x.get j = v j) ∧
        (∀ j, fieldIndex k ≤ fieldIndex j → t.block.x.get j = s.block.x.get j) ∧
        t = { s with
          block := { s.block with x := t.block.x }
          scratch := { s.scratch with ret := some (.tokenized (.decodeFailure k e)) } }) ∧
    (∀ v : Field → FieldWord, (∀ j, decodeToken Config.hw (tok j) = .value (v j)) →
      ∃ t, exec .tokenize s = .next t ∧ (∀ j, t.block.x.get j = v j) ∧
        t = { s with
          block := { s.block with x := t.block.x }
          scratch := { s.scratch with ret := some (.tokenized .ok) } })

/-- ATOMIC against PARTIAL: the same result for every line, the same registers unless a field fails to
decode; when field `k` fails, under ATOMIC no register is written and under PARTIAL those from `k` on
are not, so they differ in the registers before `k` alone (R148). -/
def Obligations.AtomicPolicyDiffersOnlyAfterAFailure : Prop :=
  ∀ (P : Params) (l : List Byte) (x : Regs),
    let part := tokenizeLine { P with commitPolicy := .partialWrite } l x
    let atom := tokenizeLine { P with commitPolicy := .atomic } l x
    atom.2 = part.2 ∧
    ((∀ k e, part.2 ≠ .decodeFailure k e) → atom.1 = part.1) ∧
    (atom.2 ≠ .ok → atom.1 = x) ∧
    (∀ k e, part.2 = .decodeFailure k e →
      ∀ j, fieldIndex k ≤ fieldIndex j → part.1.get j = x.get j)

/-- The registers after an Ok line depend on that line alone, not on the registers before, so feeding
an identical valid line again changes nothing (R149). -/
def Obligations.OkLineDecidesAllRegisters : Prop :=
  ∀ (P : Params) (l : List Byte) (x y : Regs),
    (tokenizeLine P l x).2 = .ok →
    tokenizeLine P l y = tokenizeLine P l x ∧
    tokenizeLine P l (tokenizeLine P l x).1 = tokenizeLine P l x

/-- The accepted lines: TOKENIZE returns Ok exactly when the length is at least two, there are exactly
four tabs, none at index 0, and each field holds a point, its first one not at index 0, with at most
four bytes before it, not counting one leading sign (R98). -/
def Obligations.AcceptedLinesAreExactlyThese : Prop :=
  ∀ (l : List Byte) (x : Regs),
    (tokenizeLine Config.hw l x).2 = .ok ↔
      2 ≤ l.length ∧ l.count 0x09 = 4 ∧ l.head? ≠ some 0x09 ∧
      ∀ t ∈ fieldTokens l, ∃ ip fp : List Byte, t = ip ++ 0x2E :: fp ∧ (0x2E : Byte) ∉ ip ∧
        ip ≠ [] ∧
        (if ip.head? = some 0x2B ∨ ip.head? = some 0x2D then ip.length ≤ 5 else ip.length ≤ 4)

/-! ### The FixedPointDecoder -/

/-- The property a model should prove of its DECODE: a well-formed token, an optional sign, one to four
digits, a point, any number of digits, decodes to sign * (int * 1000 + int of the fraction made three
digits) (R178). -/
def Obligations.WellFormedTokenDecodesToItsMilliValue : Prop :=
  ∀ (sg : Option Bool) (ds fs : List (Fin 10)), ds ≠ [] → ds.length ≤ 4 →
    let char : Fin 10 → Byte := fun d => BitVec.ofNat 8 (0x30 + d.val)
    let int : List (Fin 10) → Int := fun l => l.foldl (fun acc d => acc * 10 + d.val) 0
    let sign : List Byte := match sg with
      | none => []
      | some true => [0x2D]
      | some false => [0x2B]
    let f3 := if fs.length < 3 then fs ++ List.replicate (3 - fs.length) 0 else fs.take 3
    decodeToken Config.hw (sign ++ ds.map char ++ 0x2E :: fs.map char) =
      .value (BitVec.ofInt 32 ((if sg = some true then -1 else 1) * (int ds * 1000 + int f3)))

/-- The refusals of DECODE: no point, or a point first, is NotDecimal (R163, R164); more than four
bytes of integer part after one optional leading sign is TokenTooLong (R166); and every token refused is
one of these (R95).  The row hands the result
back in the scratch: log 12. -/
def Obligations.DecodeRefusesExactlySo : Prop :=
  (∀ (s : State) (ip fp : List Byte), (0x2E : Byte) ∉ ip →
    exec (.decode ip) s = .next (s.returned (.decoded (.error .notDecimal))) ∧
    exec (.decode (0x2E :: fp)) s = .next (s.returned (.decoded (.error .notDecimal))) ∧
    (4 < ip.length - (if ip.head? = some 0x2B ∨ ip.head? = some 0x2D then 1 else 0) →
      exec (.decode (ip ++ 0x2E :: fp)) s =
        .next (s.returned (.decoded (.error .tokenTooLong))))) ∧
  ∀ (s : State) (t : List Byte) (e : DecodeError),
    exec (.decode t) s = .next (s.returned (.decoded (.error e))) →
    (e = .notDecimal ∧ ((0x2E : Byte) ∉ t ∨ t.head? = some 0x2E)) ∨
    (e = .tokenTooLong ∧ ∃ ip fp : List Byte, t = ip ++ 0x2E :: fp ∧ (0x2E : Byte) ∉ ip ∧
      4 < ip.length - (if ip.head? = some 0x2B ∨ ip.head? = some 0x2D then 1 else 0))

/-- Every other token decodes to a value, whatever bytes it holds: the first point splits it, the
magnitudes are SCAN of the integer part and of NORM3 of the fraction, and the sign is that of the first
byte alone (R95, R162, R165, R171; the result in the scratch: log 12). -/
def Obligations.EveryOtherTokenDecodesToAValue : Prop :=
  ∀ (s : State) (ip fp : List Byte), (0x2E : Byte) ∉ ip → ip ≠ [] →
    ip.length - (if ip.head? = some 0x2B ∨ ip.head? = some 0x2D then 1 else 0) ≤ 4 →
    exec (.decode (ip ++ 0x2E :: fp)) s = .next (s.returned (.decoded (.value
      (BitVec.ofInt 32 ((if ip.head? = some 0x2D then -1 else 1) *
        ((scan true ip : Int) * 1000 + (scan false (norm3 Config.hw fp) : Int)))))))

/-- No intermediate of DECODE wraps: for every coherent choice of the parameters a value it returns is
exactly I * SCALE + F, negated when the token begins with '-', where I is SCAN of the bytes before the
first point, below 10^INT_MAX_CHARS, and F is SCAN of NORM3 of those after it, below SCALE; with this
hardware's parameters it lies in -9 999 999 .. +9 999 999 (R10, R172, R176). -/
def Obligations.DecodedValuesNeverWrap : Prop :=
  (∀ (P : Params) (t : List Byte) (v : FieldWord), P.Coherent → decodeToken P t = .value v →
    ∃ p, findPoint t = some p ∧
      let I := scan true (slice t 0 p)
      let F := scan false (norm3 P (slice t (p + 1) t.length))
      I < 10 ^ P.intMaxChars ∧ F < P.scale ∧
      v.toInt = (if isNegative t then -1 else 1) * ((I : Int) * P.scale + F)) ∧
  (∀ (t : List Byte) (v : FieldWord), decodeToken Config.hw t = .value v →
    -9999999 ≤ v.toInt ∧ v.toInt ≤ 9999999)

/-- NORM3: exactly three bytes, the fraction's own first and '0' where it has none (R167; the
result in the scratch: log 12). -/
def Obligations.Norm3PadsOrCutsToThree : Prop :=
  ∀ (s : State) (fp : List Byte),
    exec (.norm3 fp) s =
      .next (s.returned (.bytes ((fp ++ [0x30, 0x30, 0x30]).take 3)))

/-- SCAN: digits are accumulated left to right until a byte that is none or the end; one leading sign
is skipped where it is allowed, and is a non-digit where it is not (R168, R169; that the row's result
stands in the scratch is the model's choice, log 12). -/
def Obligations.ScanReadsTheLeadingDigits : Prop :=
  ∀ (s : State) (ds : List (Fin 10)) (rest : List Byte) (sign : Byte),
    let char : Fin 10 → Byte := fun d => BitVec.ofNat 8 (0x30 + d.val)
    let int : List (Fin 10) → Nat := fun l => l.foldl (fun acc d => acc * 10 + d.val) 0
    (∀ c, rest.head? = some c → c < 0x30 ∨ 0x39 < c) →
    (sign = 0x2B ∨ sign = 0x2D) →
    exec (.scan false (ds.map char ++ rest)) s = .next (s.returned (.magnitude (int ds))) ∧
    ((ds ≠ [] ∨ (rest.head? ≠ some 0x2B ∧ rest.head? ≠ some 0x2D)) →
      exec (.scan true (ds.map char ++ rest)) s = .next (s.returned (.magnitude (int ds)))) ∧
    exec (.scan true (sign :: (ds.map char ++ rest))) s =
      .next (s.returned (.magnitude (int ds))) ∧
    exec (.scan false (sign :: (ds.map char ++ rest))) s = .next (s.returned (.magnitude 0))

/-! ### The CHAR rows -/

/-- What each CHAR row does to the scan of the token being seen, part by part (R84, R85, R162, R165,
R168; the byte-by-byte form is the model's, log 11). -/
def Obligations.CharRowsAdvanceTheScan : Prop :=
  ∀ (s : State) (c : Byte) (d : BitVec 3) (e : BitVec 1),
    let k := s.scratch.tok
    exec .chTab s = .next { s with scratch := { s.scratch with
      closed := s.scratch.closed ++ [finishToken Config.hw k], tok := TokenScan.start } } ∧
    (k.point = none →
      exec .chPoint s = .next (s.setTok { k with point := some k.seen, seen := k.seen + 1 })) ∧
    (k.point ≠ none → exec .chPoint s = exec (.chOther c) s) ∧
    (k.seen = 0 →
      exec .chPlus s = .next (s.setTok { k with signed := true, neg := false, seen := 1 }) ∧
      exec .chMinus s = .next (s.setTok { k with signed := true, neg := true, seen := 1 })) ∧
    (k.seen ≠ 0 →
      exec .chPlus s = exec (.chOther c) s ∧ exec .chMinus s = exec (.chOther c) s) ∧
    (k.point = none →
      exec (.chOther c) s =
        .next (s.setTok { k with intStop := true, seen := k.seen + 1 })) ∧
    (k.point = none → k.intStop = false →
      exec (.chDigit07 d) s = .next (s.setTok
        { k with intMag := k.intMag * 10 + d.toNat, seen := k.seen + 1 }) ∧
      exec (.chDigit89 e) s = .next (s.setTok
        { k with intMag := k.intMag * 10 + (8 + e.toNat), seen := k.seen + 1 })) ∧
    (k.point = none → k.intStop = true →
      exec (.chDigit07 d) s = .next (s.setTok { k with seen := k.seen + 1 }) ∧
      exec (.chDigit89 e) s = .next (s.setTok { k with seen := k.seen + 1 })) ∧
    (k.point ≠ none → k.kept < 3 →
      exec (.chOther c) s = .next (s.setTok
        { k with fracStop := true, kept := k.kept + 1, seen := k.seen + 1 })) ∧
    (k.point ≠ none → k.kept < 3 → k.fracStop = false →
      exec (.chDigit07 d) s = .next (s.setTok
        { k with fracMag := k.fracMag * 10 + d.toNat, kept := k.kept + 1, seen := k.seen + 1 }) ∧
      exec (.chDigit89 e) s = .next (s.setTok
        { k with fracMag := k.fracMag * 10 + (8 + e.toNat), kept := k.kept + 1,
                 seen := k.seen + 1 })) ∧
    (k.point ≠ none → k.kept < 3 → k.fracStop = true →
      exec (.chDigit07 d) s = .next (s.setTok
        { k with kept := k.kept + 1, seen := k.seen + 1 }) ∧
      exec (.chDigit89 e) s = .next (s.setTok
        { k with kept := k.kept + 1, seen := k.seen + 1 })) ∧
    (k.point ≠ none → 3 ≤ k.kept →
      exec (.chOther c) s = .next (s.setTok { k with seen := k.seen + 1 }) ∧
      exec (.chDigit07 d) s = .next (s.setTok { k with seen := k.seen + 1 }) ∧
      exec (.chDigit89 e) s = .next (s.setTok { k with seen := k.seen + 1 }))

/-- The CHAR rows of a line's bytes, run one after another, give what TOKENIZE's split and DECODE give:
the results of the closed fields and of the last one are DECODE of the line's fields, in order, and
the block is untouched.  So the byte-by-byte reading of the rows is the spec's operation (R84, R144,
R160; log 11). -/
def Obligations.CharRowsRunOverALineAreItsDecodes : Prop :=
  ∀ (s : State) (l : List Byte),
    s.scratch.tok = TokenScan.start → s.scratch.closed = [] →
    ∃ t, execAll (l.map decodeChar) s = .next t ∧
      t.scratch.closed ++ [finishToken Config.hw t.scratch.tok] =
        (fieldTokens l).map (decodeToken Config.hw) ∧
      t.block = s.block ∧ t.trace = s.trace ∧ t.inbox = s.inbox

/-! ### The register file -/

/-- WRITE_FIELD: all 32 bits of one register at once, whatever the value, the other four and everything
else unchanged (R191; that the row on its own takes any value is the model's choice, log 13). -/
def Obligations.WriteFieldWritesOneRegister : Prop :=
  ∀ (k : Field) (v : FieldWord) (s : State), ∃ t, exec (.writeField k v) s = .next t ∧
    t.block.x.get k = v ∧ (∀ j, j ≠ k → t.block.x.get j = s.block.x.get j) ∧
    t = { s with block := { s.block with x := t.block.x } }

/-! ### The TransmitScheduler -/

/-- SCHED.FULL: Frame A with voltage then current, the baseline at the current tick, `energySent`
clear, the status reported; nothing else changes, whatever the status is (R203, R208; that the row on
its own does so whatever the elapsed ticks is the model's choice, log 13). -/
def Obligations.SchedFullSendsFrameAAndMovesTheBaseline : Prop :=
  ∀ (ok : Bool) (s : State),
    exec (.schedFull ok) s = .next { s with
      block := { s.block with base := s.block.tick, energySent := false }
      trace := s.trace ++
        [.frame { id := 0x700, len := 8,
                  payload := le32 s.block.x.voltage ++ le32 s.block.x.current },
         .diag (.txStatus .full ok)] }

/-- SCHED.ENERGY: Frame B with charge, `energySent` set, the status reported; `base` and everything
else unchanged, whatever the status is (R204, R208; that the row on its own does so whatever the
elapsed ticks and the flag is the model's choice, log 13). -/
def Obligations.SchedEnergySendsFrameBOnce : Prop :=
  ∀ (ok : Bool) (s : State),
    exec (.schedEnergy ok) s = .next { s with
      block := { s.block with energySent := true }
      trace := s.trace ++
        [.frame { id := 0x702, len := 4, payload := le32 s.block.x.charge },
         .diag (.txStatus .energy ok)] }

/-- POLL: with elapsed = (tick - base) mod 2^32, the full frame at 1000 or more; else the energy frame
at 500 or more if it was not yet attempted; else nothing at all, and SCHED.IDLE is that nothing (R201,
R202, R203, R204, R207; that SCHED.IDLE on its own does nothing also when a frame is due is the model's
choice, log 13). -/
def Obligations.PollTakesTheFirstDueCase : Prop :=
  ∀ (ok : Bool) (s : State),
    let elapsed := (s.block.tick.toNat + 2 ^ 32 - s.block.base.toNat) % 2 ^ 32
    (1000 ≤ elapsed → exec (.poll ok) s = .next { s with
      block := { s.block with base := s.block.tick, energySent := false }
      trace := s.trace ++
        [.frame { id := 0x700, len := 8,
                  payload := le32 s.block.x.voltage ++ le32 s.block.x.current },
         .diag (.txStatus .full ok)] }) ∧
    (elapsed < 1000 → 500 ≤ elapsed → s.block.energySent = false →
      exec (.poll ok) s = .next { s with
        block := { s.block with energySent := true }
        trace := s.trace ++
          [.frame { id := 0x702, len := 4, payload := le32 s.block.x.charge },
           .diag (.txStatus .energy ok)] }) ∧
    (elapsed < 500 ∨ (elapsed < 1000 ∧ s.block.energySent = true) →
      exec (.poll ok) s = .next s) ∧
    exec .schedIdle s = .next s

/-- Only the difference of `tick` and `base` is ever used: moving both by the same amount, across the
wrap or not, changes neither what a POLL hands over nor `energySent`, and moves the new baseline by
that amount (R201, R213). -/
def Obligations.PollSeesOnlyTheElapsedTicks : Prop :=
  ∀ (ok : Bool) (s t : State) (d : BitVec 32), exec (.poll ok) s = .next t →
    exec (.poll ok) { s with
      block := { s.block with tick := s.block.tick + d, base := s.block.base + d } } =
      .next { t with
        block := { t.block with tick := t.block.tick + d, base := t.block.base + d } }

/-- The transmit status is reported and nothing else: the block after a POLL is the same whatever the
status, and what is handed over differs in the status of one record, if a frame was sent at all (R206,
R208). -/
def Obligations.TransmitStatusIsOnlyReported : Prop :=
  ∀ s : State, ∃ t u, exec (.poll true) s = .next t ∧ exec (.poll false) s = .next u ∧
    t.block = u.block ∧ t.scratch = u.scratch ∧ t.inbox = u.inbox ∧
    ((t.trace = s.trace ∧ u.trace = s.trace) ∨
      ∃ f k, t.trace = s.trace ++ [.frame f, .diag (.txStatus k true)] ∧
        u.trace = s.trace ++ [.frame f, .diag (.txStatus k false)])

/-- The cadence with a POLL after every TICK, from the start of a window: nothing for 499 ticks, the
energy frame at +500, nothing more up to +999, the full frame at +1000, which also starts the next
window, whatever the statuses (R209, R205). -/
def Obligations.EachFrameOncePerThousandTicks : Prop :=
  ∀ (s : State) (oks : List Bool), s.block.tick = s.block.base → s.block.energySent = false →
    let frameB : Output := .frame { id := 0x702, len := 4, payload := le32 s.block.x.charge }
    let frameA : Output := .frame
      { id := 0x700, len := 8, payload := le32 s.block.x.voltage ++ le32 s.block.x.current }
    let sentB := [frameB, .diag (.txStatus .energy (oks.getD 499 false))]
    (∀ n, n < 500 → execAll (tickPolls n oks) s = .next { s with
      block := { s.block with tick := s.block.base + BitVec.ofNat 32 n } }) ∧
    (∀ n, 500 ≤ n → n < 1000 → execAll (tickPolls n oks) s = .next { s with
      block := { s.block with
        tick := s.block.base + BitVec.ofNat 32 n, energySent := true }
      trace := s.trace ++ sentB }) ∧
    execAll (tickPolls 1000 oks) s = .next { s with
      block := { s.block with tick := s.block.base + 1000, base := s.block.base + 1000 }
      trace := s.trace ++ sentB ++ [frameA, .diag (.txStatus .full (oks.getD 999 false))] }

/-! ### Frames, records and ports -/

/-- TX.FULL and TX.ENERGY hand over their frame, built from the registers, and change nothing else
(R89; that a FRAME row on its own is the send alone is the model's choice, log 13). -/
def Obligations.TxRowsHandOverTheirFrame : Prop :=
  ∀ s : State,
    exec .txFull s = .next { s with trace := s.trace ++
      [.frame { id := 0x700, len := 8,
                payload := le32 s.block.x.voltage ++ le32 s.block.x.current }] } ∧
    exec .txEnergy s = .next { s with trace := s.trace ++
      [.frame { id := 0x702, len := 4, payload := le32 s.block.x.charge }] }

/-- On the transmit port: for Frame A `tx_data = {x[2], x[1]}`, for Frame B `tx_data[31:0] = x[0]` with
the other bits zero; byte `i` of a payload is `tx_data[8i+7:8i]`; and the payload bytes of a register,
least significant first, are the register (R53, R55). -/
def Obligations.FrameBytesCarryTheRegisters : Prop :=
  (∀ m : Block, txData (fullFrame Config.hw m) = m.x.current ++ m.x.voltage ∧
    txData (energyFrame Config.hw m) = (0 : BitVec 32) ++ m.x.charge) ∧
  (∀ (f : Frame) (i : Nat), i < 8 →
    (txData f).extractLsb' (8 * i) 8 = if i < f.payload.length then byteAt f.payload i else 0) ∧
  (∀ v : FieldWord, ∃ b0 b1 b2 b3, le32 v = [b0, b1, b2, b3] ∧
    v.toNat = b0.toNat + 256 * b1.toNat + 65536 * b2.toNat + 16777216 * b3.toNat)

/-- Each DIAG row that is emitted hands over one record, whose code and aux at the port are the row's
word; nothing else changes (R250).  That a DIAG row run on its own hands over its record is the model's
choice, log 14; that its word has the code in byte 0 and aux in byte 1 is log 9's. -/
def Obligations.DiagRowsHandOverTheirRecord : Prop :=
  ∀ (s : State) (i : Instr) (d : Diag),
    ((i = .diagBufferOverflow ∧ d = .bufferOverflow) ∨ (i = .diagTooShort ∧ d = .tooShort) ∨
      (i = .diagFieldCountMismatch ∧ d = .fieldCountMismatch) ∨
      (∃ k, i = .diagNotDecimal k ∧ d = .decodeFailure k .notDecimal) ∨
      (∃ k, i = .diagTokenTooLong k ∧ d = .decodeFailure k .tokenTooLong) ∨
      (∃ f, i = .diagTransmitFailure f ∧ d = .txStatus f false) ∨
      (∃ f, i = .diagTransmitOk f ∧ d = .txStatus f true)) →
    exec i s = .next { s with trace := s.trace ++ [.diag d] } ∧
    encode i = (.diag, [(diagCode d).zeroExtend 8, (diagAux d).zeroExtend 8])

/-- The codes that are never emitted: no record has code 0 or a code of 8 to 15 (R250); so DIAG.NONE
and DIAG.UNUSED hand nothing over and change nothing (the model's choice, log 14). -/
def Obligations.UnemittedCodesHandOverNothing : Prop :=
  (∀ d : Diag, 1 ≤ (diagCode d).toNat ∧ (diagCode d).toNat ≤ 7) ∧
  (∀ (s : State) (low : BitVec 3),
    exec .diagNone s = .next s ∧ exec (.diagUnused low) s = .next s)

/-! ### Whole-machine rules -/

/-- Who may change what: `x` only the tokenizer's operations, WRITE_FIELD and RESET; the line only the
LineAssembler's and RESET; `tick` only TICK and RESET; `base` only SCHED.FULL, POLL and RESET;
`energySent` only those and SCHED.ENERGY (R23, R35, R260). -/
def Obligations.EachStateHasItsWriters : Prop :=
  ∀ (i : Instr) (s t : State), exec i s = .next t →
    (t.block.x ≠ s.block.x → i = .reset ∨ (∃ b, i = .feed b) ∨ i = .feedLf ∨ i = .feedCr ∨
      i = .lineComplete ∨ i = .tokenize ∨ (∃ k v, i = .writeField k v)) ∧
    ((t.block.buf ≠ s.block.buf ∨ t.block.len ≠ s.block.len ∨ t.block.ovf ≠ s.block.ovf) →
      i = .reset ∨ (∃ b, i = .feed b) ∨ i = .feedLf ∨ i = .feedCr ∨ i = .lineComplete ∨
      (∃ b, i = .feedAppend b) ∨ (∃ b, i = .append b)) ∧
    (t.block.tick ≠ s.block.tick → i = .reset ∨ i = .tick) ∧
    (t.block.base ≠ s.block.base →
      i = .reset ∨ (∃ ok, i = .poll ok) ∨ (∃ ok, i = .schedFull ok)) ∧
    (t.block.energySent ≠ s.block.energySent →
      i = .reset ∨ (∃ ok, i = .poll ok) ∨ (∃ ok, i = .schedFull ok) ∨
      (∃ ok, i = .schedEnergy ok))

/-- The scheduler and the line path share only the registers: a FEED never changes `tick`, `base` or
`energySent`; a POLL or a TICK never changes `buf`, `len`, `ovf` or any register.  A FEED, whatever it
reports, neither delays nor suppresses a frame: a POLL after it sends the frame that the POLL before it
would have sent (R214). -/
def Obligations.SchedulerAndLinePathShareOnlyRegisters : Prop :=
  ∀ (s t : State),
    (∀ b, exec (.feed b) s = .next t →
      t.block.tick = s.block.tick ∧ t.block.base = s.block.base ∧
      t.block.energySent = s.block.energySent) ∧
    (∀ i, (i = .tick ∨ ∃ ok, i = .poll ok) → exec i s = .next t →
      t.block.buf = s.block.buf ∧ t.block.len = s.block.len ∧ t.block.ovf = s.block.ovf ∧
      ∀ k, t.block.x.get k = s.block.x.get k) ∧
    (∀ b ok u v, exec (.feed b) s = .next t → exec (.poll ok) s = .next u →
      exec (.poll ok) t = .next v →
      let ids : List Output → List (BitVec 11) := fun o =>
        o.filterMap fun x => match x with | .frame f => some f.id | .diag _ => none
      ids (v.trace.drop t.trace.length) = ids (u.trace.drop s.trace.length) ∧
      v.block.base = u.block.base ∧ v.block.energySent = u.block.energySent)

/-- The invariant of the line holds along every step, from every state that has it: the memory stays
canonical and inside 0..127, `ovf` = 1 implies `len` = LINE_CAP, no valid byte is a terminator
(R40). -/
def Obligations.EveryStepKeepsTheLineInvariant : Prop :=
  ∀ s t : State, LineInv s.block → step s = .next t → LineInv t.block

/-- The registers stay in -9 999 999 .. +9 999 999 along every step of the hardware's inputs (R25,
R40). -/
def Obligations.EveryHardwareStepKeepsTheRegistersInRange : Prop :=
  ∀ s t : State, External s → RegsInRange s.block.x → step s = .next t →
    RegsInRange t.block.x ∧ External t

/-- The bytes at and above `len` are not observable: two states that differ in those bytes alone step
alike, hand over the same things, and again differ in those bytes alone (R28).  So what an unwritten
byte reads as (log 3) shows nowhere. -/
def Obligations.BytesAboveLenAreNotObservable : Prop :=
  ∀ (s t : State) (buf : Memory),
    let s' : State := { s with block := { s.block with buf := buf } }
    External s → s.block.buf.wf = true → buf.wf = true →
    lineBytes s'.block = lineBytes s.block → step s = .next t →
    ∃ t', step s' = .next t' ∧
      t' = { t with block := { t.block with buf := t'.block.buf } } ∧
      lineBytes t'.block = lineBytes t.block ∧
      t.block.buf.wf = true ∧ t'.block.buf.wf = true
end

