-- ==== Sys2Proof/Laws/State.lean ====
section
/-! SUPPORT. One lemma per field per update of the state, true by `rfl`, so that no proof unfolds a
record update. -/

namespace Sys2Proof.Machine

/-! The widths of R9, so that `2 ^ Config.tickW` and its like are numerals. -/

@[simp] theorem fieldW_eq : Config.fieldW = 32 := rfl
@[simp] theorem tickW_eq : Config.tickW = 32 := rfl
@[simp] theorem idW_eq : Config.idW = 11 := rfl
@[simp] theorem maxToken_eq : Config.maxToken = 124 := rfl

@[simp] theorem commit_block (s : State) (r : Block × List Output) : (s.commit r).block = r.1 := rfl
@[simp] theorem commit_scratch (s : State) (r : Block × List Output) :
    (s.commit r).scratch = s.scratch := rfl
@[simp] theorem commit_inbox (s : State) (r : Block × List Output) :
    (s.commit r).inbox = s.inbox := rfl
@[simp] theorem commit_trace (s : State) (r : Block × List Output) :
    (s.commit r).trace = s.trace ++ r.2 := rfl

@[simp] theorem hand_block (s : State) (o : List Output) : (s.hand o).block = s.block := rfl
@[simp] theorem hand_scratch (s : State) (o : List Output) : (s.hand o).scratch = s.scratch := rfl
@[simp] theorem hand_inbox (s : State) (o : List Output) : (s.hand o).inbox = s.inbox := rfl
@[simp] theorem hand_trace (s : State) (o : List Output) : (s.hand o).trace = s.trace ++ o := rfl

@[simp] theorem returned_block (s : State) (r : Returned) : (s.returned r).block = s.block := rfl
@[simp] theorem returned_inbox (s : State) (r : Returned) : (s.returned r).inbox = s.inbox := rfl
@[simp] theorem returned_trace (s : State) (r : Returned) : (s.returned r).trace = s.trace := rfl
@[simp] theorem returned_tok (s : State) (r : Returned) :
    (s.returned r).scratch.tok = s.scratch.tok := rfl
@[simp] theorem returned_closed (s : State) (r : Returned) :
    (s.returned r).scratch.closed = s.scratch.closed := rfl
@[simp] theorem returned_ret (s : State) (r : Returned) :
    (s.returned r).scratch.ret = some r := rfl

@[simp] theorem setTok_block (s : State) (t : TokenScan) : (s.setTok t).block = s.block := rfl
@[simp] theorem setTok_inbox (s : State) (t : TokenScan) : (s.setTok t).inbox = s.inbox := rfl
@[simp] theorem setTok_trace (s : State) (t : TokenScan) : (s.setTok t).trace = s.trace := rfl
@[simp] theorem setTok_tok (s : State) (t : TokenScan) : (s.setTok t).scratch.tok = t := rfl
@[simp] theorem setTok_closed (s : State) (t : TokenScan) :
    (s.setTok t).scratch.closed = s.scratch.closed := rfl
@[simp] theorem setTok_ret (s : State) (t : TokenScan) :
    (s.setTok t).scratch.ret = s.scratch.ret := rfl

@[simp] theorem setOvf_x (v : Bool) (m : Block) : (setOvf v m).x = m.x := rfl
@[simp] theorem setOvf_buf (v : Bool) (m : Block) : (setOvf v m).buf = m.buf := rfl
@[simp] theorem setOvf_len (v : Bool) (m : Block) : (setOvf v m).len = m.len := rfl
@[simp] theorem setOvf_ovf (v : Bool) (m : Block) : (setOvf v m).ovf = v := rfl
@[simp] theorem setOvf_tick (v : Bool) (m : Block) : (setOvf v m).tick = m.tick := rfl
@[simp] theorem setOvf_base (v : Bool) (m : Block) : (setOvf v m).base = m.base := rfl
@[simp] theorem setOvf_energySent (v : Bool) (m : Block) :
    (setOvf v m).energySent = m.energySent := rfl

@[simp] theorem setEnergySent_x (v : Bool) (m : Block) : (setEnergySent v m).x = m.x := rfl
@[simp] theorem setEnergySent_buf (v : Bool) (m : Block) : (setEnergySent v m).buf = m.buf := rfl
@[simp] theorem setEnergySent_len (v : Bool) (m : Block) : (setEnergySent v m).len = m.len := rfl
@[simp] theorem setEnergySent_ovf (v : Bool) (m : Block) : (setEnergySent v m).ovf = m.ovf := rfl
@[simp] theorem setEnergySent_tick (v : Bool) (m : Block) :
    (setEnergySent v m).tick = m.tick := rfl
@[simp] theorem setEnergySent_base (v : Bool) (m : Block) :
    (setEnergySent v m).base = m.base := rfl
@[simp] theorem setEnergySent_energySent (v : Bool) (m : Block) :
    (setEnergySent v m).energySent = v := rfl

@[simp] theorem clearLine_x (m : Block) : (clearLine m).x = m.x := rfl
@[simp] theorem clearLine_buf (m : Block) : (clearLine m).buf = m.buf := rfl
@[simp] theorem clearLine_len (m : Block) : (clearLine m).len = 0 := rfl
@[simp] theorem clearLine_ovf (m : Block) : (clearLine m).ovf = m.ovf := rfl
@[simp] theorem clearLine_tick (m : Block) : (clearLine m).tick = m.tick := rfl
@[simp] theorem clearLine_base (m : Block) : (clearLine m).base = m.base := rfl
@[simp] theorem clearLine_energySent (m : Block) : (clearLine m).energySent = m.energySent := rfl

@[simp] theorem storeByte_x (b : Byte) (m : Block) (h : m.len.val < Config.lineCap) :
    (storeByte b m h).x = m.x := rfl
@[simp] theorem storeByte_buf (b : Byte) (m : Block) (h : m.len.val < Config.lineCap) :
    (storeByte b m h).buf = m.buf.write m.len.val b := rfl
@[simp] theorem storeByte_len (b : Byte) (m : Block) (h : m.len.val < Config.lineCap) :
    (storeByte b m h).len.val = m.len.val + 1 := rfl
@[simp] theorem storeByte_ovf (b : Byte) (m : Block) (h : m.len.val < Config.lineCap) :
    (storeByte b m h).ovf = m.ovf := rfl
@[simp] theorem storeByte_tick (b : Byte) (m : Block) (h : m.len.val < Config.lineCap) :
    (storeByte b m h).tick = m.tick := rfl
@[simp] theorem storeByte_base (b : Byte) (m : Block) (h : m.len.val < Config.lineCap) :
    (storeByte b m h).base = m.base := rfl
@[simp] theorem storeByte_energySent (b : Byte) (m : Block) (h : m.len.val < Config.lineCap) :
    (storeByte b m h).energySent = m.energySent := rfl

@[simp] theorem tickBlock_x (m : Block) : (tickBlock m).x = m.x := rfl
@[simp] theorem tickBlock_buf (m : Block) : (tickBlock m).buf = m.buf := rfl
@[simp] theorem tickBlock_len (m : Block) : (tickBlock m).len = m.len := rfl
@[simp] theorem tickBlock_ovf (m : Block) : (tickBlock m).ovf = m.ovf := rfl
@[simp] theorem tickBlock_tick (m : Block) : (tickBlock m).tick = m.tick + 1 := rfl
@[simp] theorem tickBlock_base (m : Block) : (tickBlock m).base = m.base := rfl
@[simp] theorem tickBlock_energySent (m : Block) : (tickBlock m).energySent = m.energySent := rfl

@[simp] theorem writeField_x (k : Field) (v : FieldWord) (m : Block) :
    (writeField k v m).x = m.x.set k v := rfl
@[simp] theorem writeField_buf (k : Field) (v : FieldWord) (m : Block) :
    (writeField k v m).buf = m.buf := rfl
@[simp] theorem writeField_len (k : Field) (v : FieldWord) (m : Block) :
    (writeField k v m).len = m.len := rfl
@[simp] theorem writeField_ovf (k : Field) (v : FieldWord) (m : Block) :
    (writeField k v m).ovf = m.ovf := rfl
@[simp] theorem writeField_tick (k : Field) (v : FieldWord) (m : Block) :
    (writeField k v m).tick = m.tick := rfl
@[simp] theorem writeField_base (k : Field) (v : FieldWord) (m : Block) :
    (writeField k v m).base = m.base := rfl
@[simp] theorem writeField_energySent (k : Field) (v : FieldWord) (m : Block) :
    (writeField k v m).energySent = m.energySent := rfl

/-- A register reads back what was written to it (R14). -/
@[simp] theorem get_set_same (x : Regs) (k : Field) (v : FieldWord) : (x.set k v).get k = v := by
  cases k <;> rfl

/-- A write leaves every other register alone (R21). -/
theorem get_set_other (x : Regs) (v : FieldWord) {j k : Field} (h : j ≠ k) :
    (x.set k v).get j = x.get j := by
  cases j <;> cases k <;> first | rfl | exact absurd rfl h

/-- Two register files with the same five values are the same. -/
theorem regs_ext {x y : Regs} (h : ∀ k, x.get k = y.get k) : x = y := by
  cases x; cases y
  have h0 := h .charge; have h1 := h .voltage; have h2 := h .current
  have h3 := h .speed; have h4 := h .distance
  simp only [Regs.get] at h0 h1 h2 h3 h4
  subst h0 h1 h2 h3 h4
  rfl

end Sys2Proof.Machine
end

