-- ==== Sys2Proof/Laws/Memory.lean ====
section
/-! SUPPORT. The LineBuffer's memory: read after write, and that every memory operation keeps the
canonical form. -/

namespace Sys2Proof.Machine

/-- Every cell lies above index `a`. -/
theorem read_of_all_above {m : Memory} {a : Nat} (h : m.all (fun c => decide (a < c.1)) = true) :
    m.read a = unlistedByte := by
  induction m with
  | nil => rfl
  | cons c rest ih =>
    obtain ⟨k, v⟩ := c
    simp only [List.all_cons, Bool.and_eq_true, decide_eq_true_eq] at h
    simp only [Memory.read, if_neg (Nat.ne_of_lt h.1)]
    exact ih h.2

theorem all_above_mono {m : Memory} {a k : Nat} (hak : a ≤ k)
    (h : m.all (fun c => decide (k < c.1)) = true) :
    m.all (fun c => decide (a < c.1)) = true := by
  simp only [List.all_eq_true, decide_eq_true_eq] at h ⊢
  exact fun c hc => Nat.lt_of_le_of_lt hak (h c hc)

/-- What the canonical form says of a memory with a first cell. -/
theorem wf_cons {k : Nat} {v : Byte} {rest : Memory} :
    Memory.wf ((k, v) :: rest) = true ↔
      v ≠ unlistedByte ∧ k < Config.lineCap ∧ rest.all (fun c => decide (k < c.1)) = true ∧
        Memory.wf rest = true := by
  simp [Memory.wf, and_assoc]

/-- `Memory.cons` in front of a canonical list reads as the byte at its index. -/
theorem read_cons (m : Memory) (a : Nat) (b : Byte) (i : Nat)
    (h : m.all (fun c => decide (a < c.1)) = true) :
    (Memory.cons a b m).read i = if i = a then b else m.read i := by
  unfold Memory.cons
  split
  · rename_i hb
    split
    · subst hb; rename_i hi; subst hi; exact read_of_all_above h
    · rfl
  · rfl

/-- `Memory.cons` keeps the canonical form. -/
theorem wf_memoryCons {m : Memory} {a : Nat} {b : Byte} (hm : m.wf = true) (ha : a < Config.lineCap)
    (h : m.all (fun c => decide (a < c.1)) = true) : (Memory.cons a b m).wf = true := by
  unfold Memory.cons
  split
  · exact hm
  · rename_i hb; exact wf_cons.2 ⟨hb, ha, h, hm⟩

/-- Cells above `k` stay above `k` when an index above `k` is written. -/
theorem all_above_write {m : Memory} {k a : Nat} {b : Byte} (ha : k < a)
    (h : m.all (fun c => decide (k < c.1)) = true) :
    (m.write a b).all (fun c => decide (k < c.1)) = true := by
  have hcons : ∀ n : Memory, n.all (fun c => decide (k < c.1)) = true →
      (Memory.cons a b n).all (fun c => decide (k < c.1)) = true := by
    intro n hn
    unfold Memory.cons
    split
    · exact hn
    · simp only [List.all_cons, Bool.and_eq_true, decide_eq_true_eq]; exact ⟨ha, hn⟩
  induction m with
  | nil => exact hcons [] rfl
  | cons c rest ih =>
    obtain ⟨j, v⟩ := c
    have h' := h
    simp only [List.all_cons, Bool.and_eq_true, decide_eq_true_eq] at h'
    simp only [Memory.write]
    split
    · exact hcons _ h
    · split
      · exact hcons _ h'.2
      · simp only [List.all_cons, Bool.and_eq_true, decide_eq_true_eq]
        exact ⟨h'.1, ih h'.2⟩

/-- Read after write: the byte written at its index, every other byte as before. -/
theorem read_write {m : Memory} (hm : m.wf = true) (a : Nat) (b : Byte) (i : Nat) :
    (m.write a b).read i = if i = a then b else m.read i := by
  induction m with
  | nil => exact read_cons [] a b i rfl
  | cons c rest ih =>
    obtain ⟨k, v⟩ := c
    obtain ⟨_, _, habove, hrest⟩ := wf_cons.1 hm
    simp only [Memory.write]
    split
    · rename_i hak
      refine read_cons _ a b i ?_
      simp only [List.all_cons, Bool.and_eq_true, decide_eq_true_eq]
      exact ⟨hak, all_above_mono (Nat.le_of_lt hak) habove⟩
    · split
      · rename_i hak
        subst hak
        rw [read_cons rest a b i habove]
        split
        · rfl
        · rename_i hne; simp only [Memory.read, if_neg hne]
      · rename_i hnk
        simp only [Memory.read]
        split
        · rename_i hik; subst hik; rw [if_neg (Ne.symm hnk)]
        · rw [ih hrest]

/-- A write inside LINE_CAP keeps the canonical form. -/
theorem write_keeps_wf {m : Memory} (hm : m.wf = true) {a : Nat} (ha : a < Config.lineCap)
    (b : Byte) : (m.write a b).wf = true := by
  induction m with
  | nil => exact wf_memoryCons rfl ha rfl
  | cons c rest ih =>
    obtain ⟨k, v⟩ := c
    obtain ⟨hv, hk, habove, hrest⟩ := wf_cons.1 hm
    simp only [Memory.write]
    split
    · rename_i hak
      refine wf_memoryCons hm ha ?_
      simp only [List.all_cons, Bool.and_eq_true, decide_eq_true_eq]
      exact ⟨hak, all_above_mono (Nat.le_of_lt hak) habove⟩
    · split
      · rename_i hak; subst hak; exact wf_memoryCons hrest hk habove
      · rename_i h1 h2
        exact wf_cons.2 ⟨hv, hk, all_above_write (by omega) habove, ih hrest⟩

/-- The memory after reset has the canonical form. -/
theorem reset_memory_wf : State.reset.block.buf.wf = true := rfl

@[simp] theorem length_lineBytes (m : Block) : (lineBytes m).length = m.len.val := by
  simp [lineBytes, memRead]

/-- The byte at an index of the line is the memory's byte there. -/
theorem lineBytes_getElem (m : Block) (i : Nat) (h : i < (lineBytes m).length) :
    (lineBytes m)[i] = m.buf.read i := by
  simp [lineBytes, memRead]

/-- The line after an append is the line before it and the byte (R51, R123). -/
theorem lineBytes_storeByte {m : Block} (hm : m.buf.wf = true) (b : Byte)
    (h : m.len.val < Config.lineCap) : lineBytes (storeByte b m h) = lineBytes m ++ [b] := by
  simp only [lineBytes, memRead, storeByte_len, storeByte_buf, List.range_succ, List.map_append,
    List.map_cons, List.map_nil, Nat.zero_add]
  congr 1
  · refine List.map_congr_left fun j hj => ?_
    rw [read_write hm, if_neg (Nat.ne_of_lt (List.mem_range.1 hj))]
  · rw [read_write hm, if_pos rfl]

/-- The line after a clear is empty. -/
@[simp] theorem lineBytes_clearLine (m : Block) : lineBytes (clearLine m) = [] := rfl

end Sys2Proof.Machine
end

