-- ==== Sys2Proof/Laws/Ops.lean ====
section
/-! SUPPORT. One lemma per shared operation that says once everything it can do. -/

namespace Sys2Proof.Machine

/-- APPEND drops, stores or overflows (R123 to R125). -/
theorem appendByte_cases (b : Byte) (m : Block) :
    (m.ovf = true ∧ appendByte b m = (m, [])) ∨
    (m.ovf = false ∧ ∃ h : m.len.val < Config.lineCap, appendByte b m = (storeByte b m h, [])) ∨
    (m.ovf = false ∧ m.len.val = Config.lineCap ∧
      appendByte b m = (setOvf true m, report .bufferOverflow)) := by
  unfold appendByte
  split
  · rename_i ho; exact .inl ⟨ho, rfl⟩
  · rename_i ho
    have ho : m.ovf = false := Bool.eq_false_iff.2 ho
    split
    · rename_i h; exact .inr (.inl ⟨ho, h, rfl⟩)
    · rename_i h; exact .inr (.inr ⟨ho, by have := m.len.isLt; omega, rfl⟩)

theorem appendByte_drop {m : Block} (ho : m.ovf = true) (b : Byte) :
    appendByte b m = (m, []) := by
  unfold appendByte; rw [if_pos ho]

theorem appendByte_store {m : Block} (ho : m.ovf = false) (h : m.len.val < Config.lineCap)
    (b : Byte) : appendByte b m = (storeByte b m h, []) := by
  unfold appendByte; rw [if_neg (by simp [ho]), dif_pos h]

theorem appendByte_overflow {m : Block} (ho : m.ovf = false) (h : m.len.val = Config.lineCap)
    (b : Byte) : appendByte b m = (setOvf true m, report .bufferOverflow) := by
  unfold appendByte; rw [if_neg (by simp [ho]), dif_neg (by omega)]

/-- LINE_COMPLETE discards or tokenizes, and clears the line either way (R126, R127). -/
theorem completeLine_cases (P : Params) (m : Block) :
    (m.ovf = true ∧ completeLine P m = (setOvf false (clearLine m), [])) ∨
    (m.ovf = false ∧ completeLine P m =
      (clearLine { m with x := (tokenizeLine P (lineBytes m) m.x).1 },
        reportResult (tokenizeLine P (lineBytes m) m.x).2)) := by
  unfold completeLine
  split
  · rename_i ho; refine .inl ⟨ho, ?_⟩; cases P.overflowPolicy; rfl
  · rename_i ho; exact .inr ⟨Bool.eq_false_iff.2 ho, rfl⟩

theorem feedByte_terminator (P : Params) {b : Byte} (h : isTerminator b = true) (m : Block) :
    feedByte P b m = completeLine P m := by
  unfold feedByte; rw [if_pos h]

theorem feedByte_data (P : Params) {b : Byte} (h : isTerminator b = false) (m : Block) :
    feedByte P b m = appendByte b m := by
  unfold feedByte; rw [if_neg (by simp [h])]

/-- POLL takes one of its three cases (R202). -/
theorem pollBlock_cases (P : Params) (ok : Bool) (m : Block) :
    (P.fullPeriod ≤ (m.tick - m.base).toNat ∧ pollBlock P ok m = schedFull P m.tick ok m) ∨
    ((m.tick - m.base).toNat < P.fullPeriod ∧ P.energyOffset ≤ (m.tick - m.base).toNat ∧
      m.energySent = false ∧ pollBlock P ok m = schedEnergy P ok m) ∨
    ((m.tick - m.base).toNat < P.fullPeriod ∧
      ((m.tick - m.base).toNat < P.energyOffset ∨ m.energySent = true) ∧
      pollBlock P ok m = (m, [])) := by
  unfold pollBlock fullDue energyDue elapsed schedIdle
  dsimp only
  generalize (m.tick - m.base).toNat = d
  by_cases h1 : P.fullPeriod ≤ d
  · exact .inl ⟨h1, by simp [h1]⟩
  · by_cases h2 : P.energyOffset ≤ d ∧ m.energySent = false
    · exact .inr (.inl ⟨by omega, h2.1, h2.2, by simp [h1, h2.1, h2.2]⟩)
    · refine .inr (.inr ⟨by omega, ?_, ?_⟩)
      · by_cases h3 : P.energyOffset ≤ d
        · right
          by_contra h4
          exact h2 ⟨h3, Bool.eq_false_iff.2 h4⟩
        · left; omega
      · simp only [decide_eq_true_eq, h1, if_false]
        rw [if_neg]
        simpa using h2

/-- The commit policy never changes what TOKENIZE returns (R148). -/
@[simp] theorem commitRegs_result (policy : CommitPolicy) (x : Regs) (r : Regs × TokenizeResult) :
    (commitRegs policy x r).2 = r.2 := by
  cases policy
  · rfl
  · unfold commitRegs; dsimp only; split <;> rfl

/-- TOKENIZE fails one of its three checks, leaving the registers, or splits and decodes (R141 to
R146). -/
theorem tokenizeLine_cases (P : Params) (l : List Byte) (x : Regs) :
    (l.length < P.minLineLen ∧ tokenizeLine P l x = (x, .tooShort)) ∨
    (P.minLineLen ≤ l.length ∧ (tabIndices l).head? = some 0 ∧
      tokenizeLine P l x = (x, .tooShort)) ∨
    (P.minLineLen ≤ l.length ∧ (tabIndices l).head? ≠ some 0 ∧
      (tabIndices l).length ≠ Config.nTabs ∧ tokenizeLine P l x = (x, .fieldCountMismatch)) ∨
    (P.minLineLen ≤ l.length ∧ (tabIndices l).head? ≠ some 0 ∧
      (tabIndices l).length = Config.nTabs ∧
      tokenizeLine P l x =
        commitRegs P.commitPolicy x (decodeFields P (fieldOrder.zip (fieldTokens l)) x)) := by
  unfold tokenizeLine
  by_cases h1 : l.length < P.minLineLen
  · exact .inl ⟨h1, by rw [if_pos h1]⟩
  · rw [if_neg h1]
    have h1 : P.minLineLen ≤ l.length := by omega
    by_cases h2 : (tabIndices l).head? = some 0
    · exact .inr (.inl ⟨h1, h2, by rw [if_pos h2]⟩)
    · rw [if_neg h2]
      by_cases h3 : (tabIndices l).length = Config.nTabs
      · exact .inr (.inr (.inr ⟨h1, h2, h3, by rw [if_neg (not_not_intro h3)]⟩))
      · exact .inr (.inr (.inl ⟨h1, h2, h3, by rw [if_pos h3]⟩))

@[simp] theorem decodeFields_nil (P : Params) (x : Regs) : decodeFields P [] x = (x, .ok) := rfl

theorem decodeFields_error {P : Params} {t : List Byte} {e : DecodeError}
    (h : decodeToken P t = .error e) (k : Field) (rest : List (Field × List Byte)) (x : Regs) :
    decodeFields P ((k, t) :: rest) x = (x, .decodeFailure k e) := by
  simp only [decodeFields, h]

theorem decodeFields_value {P : Params} {t : List Byte} {v : FieldWord}
    (h : decodeToken P t = .value v) (k : Field) (rest : List (Field × List Byte)) (x : Regs) :
    decodeFields P ((k, t) :: rest) x = decodeFields P rest (x.set k v) := by
  simp only [decodeFields, h]

/-- DECODE refuses for one of its three reasons, or gives the value of R171. -/
theorem decodeToken_cases (P : Params) (t : List Byte) :
    (findPoint t = none ∧ decodeToken P t = .error .notDecimal) ∨
    (findPoint t = some 0 ∧ decodeToken P t = .error .notDecimal) ∨
    (∃ p, findPoint t = some p ∧ p ≠ 0 ∧
      P.intMaxChars < p - (if hasSign t then 1 else 0) ∧
      decodeToken P t = .error .tokenTooLong) ∨
    (∃ p, findPoint t = some p ∧ p ≠ 0 ∧
      p - (if hasSign t then 1 else 0) ≤ P.intMaxChars ∧
      decodeToken P t = .value (signedMilli (isNegative t)
        (scan true (slice t 0 p) * P.scale +
          scan false (norm3 P (slice t (p + 1) t.length))))) := by
  unfold decodeToken
  cases hp : findPoint t with
  | none => exact .inl ⟨rfl, rfl⟩
  | some p =>
    by_cases h0 : p = 0
    · subst h0; exact .inr (.inl ⟨rfl, by simp⟩)
    · by_cases hl : P.intMaxChars < p - (if hasSign t then 1 else 0)
      · exact .inr (.inr (.inl ⟨p, rfl, h0, hl, by simp only [if_neg h0, if_pos hl]⟩))
      · exact .inr (.inr (.inr ⟨p, rfl, h0, by omega, by simp only [if_neg h0, if_neg hl]⟩))

theorem scanDigits_digit {c : Byte} (h : isDigit c = true) (acc : Nat) (rest : List Byte) :
    scanDigits acc (c :: rest) = scanDigits (acc * 10 + digitVal c) rest := by
  simp only [scanDigits, if_pos h]

theorem scanDigits_stop {c : Byte} (h : isDigit c = false) (acc : Nat) (rest : List Byte) :
    scanDigits acc (c :: rest) = acc := by
  simp only [scanDigits, h, Bool.false_eq_true, if_false]

/-- The value of a digit byte is at most 9 (R85). -/
theorem digitVal_le {c : Byte} (h : isDigit c = true) : digitVal c ≤ 9 := by
  revert c; decide

@[simp] theorem length_norm3 (P : Params) (fp : List Byte) :
    (norm3 P fp).length = P.fracDigits := by
  simp [norm3]

/-- Nothing follows the instruction of a word that is no EVENT word. -/
theorem eventsAfter_of_ne {f : Format} (h : f ≠ .event) (bs : List Byte) : eventsAfter f bs = [] := by
  unfold eventsAfter
  split
  · exact absurd rfl h
  · rfl

/-- What follows the first event of an EVENT word is what follows it in its cycle (R90, R258). -/
theorem eventsAfter_event {bs : List Byte} {c : Cycle} (h : Cycle.ofBytes bs = some c) :
    eventsAfter .event bs = c.remainder := by
  simp only [eventsAfter, h]

/-- The decoder names the first event of an EVENT word's cycle (R90, R258). -/
theorem decodeEvent_of_cycle {bs : List Byte} {c : Cycle} (h : Cycle.ofBytes bs = some c) :
    decodeEvent bs = match c.firstEvent with
      | none => .error .noEvent
      | some i => .ok (i, 3) := by
  cases hc : c.firstEvent <;> simp only [decodeEvent, h, hc]

/-- What a step fetches: nothing, the first event of a cycle, or the instruction of a word; a word that no
row matches is nothing (R90, R258; log 8). -/
theorem fetch_cases (s : State) :
    (s.inbox = [] ∧ fetch s = .idle s) ∨
    (∃ c rest, s.inbox = .cycle c :: rest ∧
      ((c.firstEvent = none ∧ fetch s = .idle { s with inbox := rest }) ∨
       (∃ i, c.firstEvent = some i ∧
        fetch s = .run i { s with inbox := c.remainder.map Entry.cycle ++ rest }))) ∨
    (∃ f bs rest, s.inbox = .word f bs :: rest ∧
      ((∃ why, decode f bs = .error why ∧ fetch s = .idle { s with inbox := rest }) ∨
       (∃ i, decode f bs = .ok i ∧
        fetch s = .run i { s with inbox := (eventsAfter f bs).map Entry.cycle ++ rest }))) := by
  unfold fetch
  match h : s.inbox with
  | [] => exact .inl ⟨rfl, rfl⟩
  | .cycle c :: rest =>
    refine .inr (.inl ⟨c, rest, rfl, ?_⟩)
    simp only [fetchCycle]
    cases hf : c.firstEvent with
    | none => exact .inl ⟨rfl, rfl⟩
    | some i => exact .inr ⟨i, rfl, rfl⟩
  | .word f bs :: rest =>
    refine .inr (.inr ⟨f, bs, rest, rfl, ?_⟩)
    simp only [fetchWord]
    cases hd : decode f bs with
    | error why => exact .inl ⟨why, rfl, rfl⟩
    | ok i => exact .inr ⟨i, rfl, rfl⟩

@[simp] theorem execAll_nil (s : State) : execAll [] s = .next s := rfl

theorem execAll_cons {i : Instr} {s t : State} (h : exec i s = .next t) (rest : List Instr) :
    execAll (i :: rest) s = execAll rest t := by
  simp only [execAll, h]

/-- Running two lists one after the other. -/
theorem execAll_append {l : List Instr} {s t : State} (h : execAll l s = .next t)
    (l' : List Instr) : execAll (l ++ l') s = execAll l' t := by
  induction l generalizing s with
  | nil => simp only [execAll, Host.Outcome.next.injEq] at h; subst h; rfl
  | cons i rest ih =>
    simp only [List.cons_append, execAll] at h ⊢
    cases he : exec i s with
    | next u => simp only [he] at h ⊢; exact ih h
    | fault r => simp only [he] at h; cases h
    | refused r => simp only [he] at h; cases h

/-- A word that decodes gives a well-formed instruction. -/
theorem decode_wellFormed {f : Format} {bs : List Byte} {i : Instr} (h : decode f bs = .ok i) :
    wellFormed i = true := by
  unfold decode at h
  split at h
  · cases h
  · split at h
    · split at h
      · rename_i hw; cases h; exact hw
      · cases h
    · cases h

end Sys2Proof.Machine
end

