-- ==== Sys2Proof/Tests/Slice0.lean ====
section
/-! SUPPORT. The model's own tests: the smoke test of WellFormed, a word of every row written out from
the spec's tables, the vectors of 95_test_vectors.md, and a witness for every statement that has
hypotheses. -/

namespace Sys2Proof.Tests

open Sys2Proof.Machine

/-! ### Helpers -/

/-- The cells of a byte string that begins at index `i`. -/
def cellsFrom (i : Nat) : List Byte → Memory
  | [] => []
  | b :: rest => Memory.cons i b (cellsFrom (i + 1) rest)

/-- All five registers at one value. -/
def allRegs (v : FieldWord) : Regs :=
  { charge := v, voltage := v, current := v, speed := v, distance := v }

/-- A state that holds a line, its registers at 9 (the start of V5). -/
def holding (l : List Byte) : State :=
  { State.reset with
    block := { Block.reset with
      x := allRegs 9, buf := cellsFrom 0 l, len := Fin.ofNat (Config.lineCap + 1) l.length } }

/-- A state with so many bytes held (all of them 0x00), and the overflow flag. -/
def filled (n : Nat) (o : Bool) : State :=
  { State.reset with
    block := { Block.reset with len := Fin.ofNat (Config.lineCap + 1) n, ovf := o } }

/-- A state of the scheduler. -/
def window (tick base : TickWord) (es : Bool) : State :=
  { State.reset with block := { Block.reset with tick := tick, base := base, energySent := es } }

/-- A state with the token being seen at some point of its scan. -/
def seeing (t : TokenScan) : State := State.reset.setTok t

/-- A state with one entry presented. -/
def presenting (e : Entry) : State := { State.reset with inbox := [e] }

/-- The outcome is a next state of which `p` holds. -/
def nextHas (o : Host.Outcome State Fault Refusal) (p : State → Bool) : Bool :=
  match o with
  | .next t => p t
  | .fault _ => false
  | .refused _ => false

/-- The decoder reads exactly this instruction from these bytes. -/
def reads (f : Format) (bs : List Byte) (i : Instr) : Bool :=
  match decode f bs with
  | .ok j => decide (j = i)
  | .error _ => false

/-- The decoder rejects these bytes for this reason. -/
def rejects (f : Format) (bs : List Byte) (r : Reject) : Bool :=
  match decode f bs with
  | .ok _ => false
  | .error q => decide (q = r)

/-- The line of S1: 3.128, 42.12, 10.04, 15.32, 8.9132. -/
def lineS1 : List Byte :=
  [0x33, 0x2E, 0x31, 0x32, 0x38, 0x09, 0x34, 0x32, 0x2E, 0x31, 0x32, 0x09,
   0x31, 0x30, 0x2E, 0x30, 0x34, 0x09, 0x31, 0x35, 0x2E, 0x33, 0x32, 0x09,
   0x38, 0x2E, 0x39, 0x31, 0x33, 0x32]

/-- The line of V5 whose third field fails: 1.5, 2.5, x, 4.5, 5.5. -/
def lineBad2 : List Byte :=
  [0x31, 0x2E, 0x35, 0x09, 0x32, 0x2E, 0x35, 0x09, 0x78, 0x09, 0x34, 0x2E, 0x35, 0x09,
   0x35, 0x2E, 0x35]

/-- The line of V5 `1.` five times. -/
def lineOnes : List Byte :=
  [0x31, 0x2E, 0x09, 0x31, 0x2E, 0x09, 0x31, 0x2E, 0x09, 0x31, 0x2E, 0x09, 0x31, 0x2E]

/-! ### WellFormed: an ill-formed term for each check -/

theorem test_wf_feed_append_lf : wellFormed (.feedAppend 0x0A) = false := by decide
theorem test_wf_feed_append_cr : wellFormed (.feedAppend 0x0D) = false := by decide
theorem test_wf_append_terminator : wellFormed (.append 0x0A) = false := by decide
theorem test_wf_other_tab : wellFormed (.chOther 0x09) = false := by decide
theorem test_wf_other_point : wellFormed (.chOther 0x2E) = false := by decide
theorem test_wf_other_sign : wellFormed (.chOther 0x2D) = false := by decide
theorem test_wf_other_digit : wellFormed (.chOther 0x35) = false := by decide
theorem test_wf_decode_tab : wellFormed (.decode [0x31, 0x09]) = false := by decide
theorem test_wf_decode_terminator : wellFormed (.decode [0x31, 0x0D]) = false := by decide
theorem test_wf_decode_long : wellFormed (.decode (List.replicate 125 0x30)) = false := by
  simp [wellFormed, Config.maxToken, Config.lineCap, Config.nTabs]
theorem test_wf_norm3_long : wellFormed (.norm3 (List.replicate 125 0x30)) = false := by
  simp [wellFormed, Config.maxToken, Config.lineCap, Config.nTabs]
theorem test_wf_scan_long : wellFormed (.scan true (List.replicate 125 0x30)) = false := by
  simp [wellFormed, Config.maxToken, Config.lineCap, Config.nTabs]

/-! ### Words written out from the encoding tables (R81 to R92) -/

/-- R81: BYTE, 8 bits. -/
theorem test_words_byte :
    reads .byte [0b00001010] .feedLf ∧ reads .byte [0b00001101] .feedCr ∧
    reads .byte [0b01100001] (.feedAppend 0b01100001) ∧
    reads .byte [0b00001001] (.feedAppend 0x09) := by decide

/-- R83, R84: CHAR, 8 bits. -/
theorem test_words_char :
    reads .char [0b00001001] .chTab ∧ reads .char [0b00101110] .chPoint ∧
    reads .char [0b00101011] .chPlus ∧ reads .char [0b00101101] .chMinus ∧
    reads .char [0b00110000] (.chDigit07 0b000) ∧ reads .char [0b00110111] (.chDigit07 0b111) ∧
    reads .char [0b00111000] (.chDigit89 0) ∧ reads .char [0b00111001] (.chDigit89 1) ∧
    reads .char [0b00101111] (.chOther 0x2F) ∧ reads .char [0b00111010] (.chOther 0x3A) := by decide

/-- R90: EVENT, the vector in byte 0. -/
theorem test_words_event :
    reads .event [0b1000] .reset ∧ reads .event [0b1111] .reset ∧ reads .event [0b0100] .tick ∧
    reads .event [0b0010, 0x41] (.feed 0x41) ∧ reads .event [0b0001, 0, 1] (.poll true) ∧
    reads .event [0b0001] (.poll false) ∧ rejects .event [0b0000] .noEvent := by decide

/-- R92: INTERNAL, the ordinal in byte 0 (operands: log 9). -/
theorem test_words_internal :
    reads .internal [0] .lineComplete ∧ reads .internal [1, 0x33] (.append 0x33) ∧
    reads .internal [2] .tokenize ∧ reads .internal [3, 2, 0x31, 0x2E] (.decode [0x31, 0x2E]) ∧
    reads .internal [4, 1, 0x35] (.norm3 [0x35]) ∧
    reads .internal [5, 1, 2, 0x2D, 0x34] (.scan true [0x2D, 0x34]) ∧
    reads .internal [6, 1, 0x88, 0xA4, 0, 0] (.writeField .voltage 42120) ∧
    reads .internal [7, 1] (.schedFull true) ∧ reads .internal [8] (.schedEnergy false) ∧
    reads .internal [9] .schedIdle ∧ rejects .internal [10] .noOrdinal := by decide

/-- R89: FRAME, the 11-bit identifier, low byte first. -/
theorem test_words_frame :
    reads .frame [0x00, 0x07] .txFull ∧ reads .frame [0x02, 0x07] .txEnergy ∧
    rejects .frame [0x01, 0x07] .noIdentifier := by decide

/-- R91, R250: DIAG, the code in byte 0, aux in byte 1. -/
theorem test_words_diag :
    reads .diag [0] .diagNone ∧ reads .diag [1] .diagBufferOverflow ∧
    reads .diag [2] .diagTooShort ∧ reads .diag [3] .diagFieldCountMismatch ∧
    reads .diag [4, 4] (.diagNotDecimal .distance) ∧
    reads .diag [5, 1] (.diagTokenTooLong .voltage) ∧
    reads .diag [6, 1] (.diagTransmitFailure .energy) ∧ reads .diag [7] (.diagTransmitOk .full) ∧
    reads .diag [0b1101, 0b1001] (.diagUnused 0b101) ∧ rejects .diag [4, 5] .noCode := by decide

/-- A bit past the bytes a word uses is no word; nor is an ill-formed operand. -/
theorem test_words_rejected :
    rejects .byte [0x41, 1] .trailingBits ∧ rejects .internal [1, 0x0A] .badOperand := by decide

/-- Table words: the format is a tie-break (log 10), the instruction the row's. -/
theorem test_table_words :
    decodeTableWord 8 0x0A = some .feedLf ∧ decodeTableWord 8 0x2E = some .chPoint ∧
    decodeTableWord 8 0b1000 = some .reset ∧ decodeTableWord 8 0b0001 = some (.poll false) ∧
    decodeTableWord 8 3 = some (.decode []) ∧ decodeTableWord 16 0x702 = some .txEnergy ∧
    decodeTableWord 8 0x61 = some (.feedAppend 0x61) := by decide

/-- A table word placed at reset is what the first step runs. -/
theorem test_step_table_word :
    nextHas (step (State.reset.withFetchWord 8 0b0100)) (fun t => t.block.tick = 1) ∧
    nextHas (step (State.reset.withFetchWord 8 0x61)) (fun t => lineBytes t.block = [0x61]) := by
  decide

/-- R90: all the events of an EVENT word happen (TICK, FEED, POLL); its vector 0000 is none. -/
theorem test_event_word :
    nextHas (Host.Core.run Sys2Proof.core 3 (presenting (.word .event [0b0111, 0x41, 1])))
      (fun t => t.block.tick = 1 && lineBytes t.block = [0x41] && t.inbox = []) ∧
    nextHas (step (presenting (.word .event [0b0000]))) (fun t => t = State.reset) := by decide

/-! ### The vectors of 95_test_vectors.md -/

/-- S1 and the example of R126: the line, then LF. -/
theorem test_s1_feed_lf :
    nextHas (exec .feedLf (holding lineS1)) (fun t =>
      t.block.x = ⟨3128, 42120, 10040, 15320, 8913⟩ && t.block.len = 0 && t.trace = []) := by
  decide

/-- V5, the failing third field, ended by CR. -/
theorem test_v5_feed_cr :
    nextHas (exec .feedCr (holding lineBad2)) (fun t =>
      t.block.x = ⟨1500, 2500, 9, 9, 9⟩ && t.block.len = 0 &&
        t.trace = [.diag (.decodeFailure .current .notDecimal)]) := by decide

/-- V5: `1.` five times is Ok; an event FEED. -/
theorem test_v5_feed :
    nextHas (exec (.feed 0x0A) (holding lineOnes)) (fun t =>
      t.block.x = allRegs 1000 && t.trace = []) := by decide

/-- V5, `12`: no tab. -/
theorem test_v5_line_complete :
    nextHas (exec .lineComplete (holding [0x31, 0x32])) (fun t =>
      t.block.x = allRegs 9 && t.block.len = 0 && t.trace = [.diag .fieldCountMismatch]) := by
  decide

/-- V5, two tabs: a tab at index 0. -/
theorem test_v5_tokenize :
    nextHas (exec .tokenize (holding [0x09, 0x09])) (fun t =>
      t.scratch.ret = some (.tokenized .tooShort) && t.block.len = 2) := by decide

/-- V6 row 2: the 129th data byte. -/
theorem test_v6_overflow :
    nextHas (exec (.feedAppend 0x31) (filled 128 false)) (fun t =>
      t.block.ovf && t.block.len = 128 && t.trace = [.diag .bufferOverflow]) := by decide

/-- The example of R123. -/
theorem test_append :
    nextHas (exec (.append 0x33) (filled 0 false)) (fun t =>
      t.block.buf = [(0, 0x33)] && t.block.len = 1) := by decide

/-- V1, V2, V3: `-7.1239`, `--1234.5`, `1.2.3`. -/
theorem test_v1_v2_v3_decode :
    decodeToken Config.hw [0x2D, 0x37, 0x2E, 0x31, 0x32, 0x33, 0x39] = .value (-7123) ∧
    decodeToken Config.hw [0x2D, 0x2D, 0x31, 0x32, 0x33, 0x34, 0x2E, 0x35] =
      .error .tokenTooLong ∧
    decodeToken Config.hw [0x31, 0x2E, 0x32, 0x2E, 0x33] = .value 1002 ∧
    decodeToken Config.hw [0x2D, 0x2E, 0x35] = .value (-500) ∧
    decodeToken Config.hw [0x31, 0x32, 0x33, 0x34, 0x35, 0x36] = .error .notDecimal := by decide

/-- V2, `.5`, by the row. -/
theorem test_decode :
    nextHas (exec (.decode [0x2E, 0x35]) State.reset) (fun t =>
      t.scratch.ret = some (.decoded (.error .notDecimal))) := by decide

/-- V4: NORM3 of `5x`. -/
theorem test_v4_norm3 :
    nextHas (exec (.norm3 [0x35, 0x78]) State.reset) (fun t =>
      t.scratch.ret = some (.bytes [0x35, 0x78, 0x30])) := by decide

/-- V4: SCAN of `-50` with no sign allowed, and of `12a`. -/
theorem test_v4_scan :
    nextHas (exec (.scan false [0x2D, 0x35, 0x30]) State.reset) (fun t =>
      t.scratch.ret = some (.magnitude 0)) ∧
    nextHas (exec (.scan true [0x31, 0x32, 0x61]) State.reset) (fun t =>
      t.scratch.ret = some (.magnitude 12)) := by decide

/-- The CHAR rows of `-7.1239` give V1's value, and those of `+a.2.3` the value R162, R168 and R169 give (I = 0, F = 2). -/
theorem test_char_rows :
    nextHas (execAll [.chMinus, .chDigit07 7, .chPoint, .chDigit07 1, .chDigit07 2, .chDigit07 3,
        .chDigit89 1, .chTab] State.reset)
      (fun t => t.scratch.closed = [.value (-7123)]) ∧
    nextHas (execAll [.chPlus, .chOther 0x61, .chPoint, .chDigit07 2, .chPoint, .chDigit07 3,
        .chTab] State.reset)
      (fun t => t.scratch.closed = [.value 2]) := by decide

/-- The example of R191. -/
theorem test_write_field :
    nextHas (exec (.writeField .voltage 42120) (holding [])) (fun t =>
      t.block.x = ⟨9, 0x0000A488, 9, 9, 9⟩) := by decide

/-- V7: the frames' bytes and the port. -/
theorem test_v7_frames :
    let m : Block := { Block.reset with x := ⟨3128, 42120, 10040, 0, 0⟩ }
    (fullFrame Config.hw m).payload = [0x88, 0xA4, 0x00, 0x00, 0x38, 0x27, 0x00, 0x00] ∧
    txData (fullFrame Config.hw m) = 0x000027380000A488 ∧
    (energyFrame Config.hw m).payload = [0x38, 0x0C, 0x00, 0x00] ∧
    le32 (-9999999) = [0x81, 0x69, 0x67, 0xFF] := by decide

/-- The FRAME rows hand over one frame. -/
theorem test_tx_rows :
    nextHas (exec .txFull (holding [])) (fun t =>
      t.trace = [.frame ⟨0x700, 8, [9, 0, 0, 0, 9, 0, 0, 0]⟩]) ∧
    nextHas (exec .txEnergy (holding [])) (fun t =>
      t.trace = [.frame ⟨0x702, 4, [9, 0, 0, 0]⟩]) := by decide

/-- V8: idle at 499 and 999, energy at 500, full at 1000. -/
theorem test_v8_poll :
    nextHas (exec (.poll true) (window 499 0 false)) (fun t => t = window 499 0 false) ∧
    nextHas (exec (.poll true) (window 999 0 true)) (fun t => t = window 999 0 true) ∧
    nextHas (exec (.poll false) (window 500 0 false)) (fun t =>
      t.block.energySent && t.block.base = 0 &&
        t.trace = [.frame ⟨0x702, 4, [0, 0, 0, 0]⟩, .diag (.txStatus .energy false)]) ∧
    nextHas (exec (.poll true) (window 1000 0 true)) (fun t =>
      !t.block.energySent && t.block.base = 1000 &&
        t.trace = [.frame ⟨0x700, 8, [0, 0, 0, 0, 0, 0, 0, 0]⟩, .diag (.txStatus .full true)]) := by
  decide

/-- V8, across the wrap of `tick`. -/
theorem test_v8_poll_wrap :
    nextHas (exec (.poll true) (window 0x000000F4 0xFFFFFF00 false)) (fun t =>
      t.block.energySent && t.block.base = 0xFFFFFF00) ∧
    nextHas (exec (.poll true) (window 0x000002E8 0xFFFFFF00 true)) (fun t =>
      !t.block.energySent && t.block.base = 0x000002E8) := by decide

/-- The rows SCHED.FULL, SCHED.ENERGY and SCHED.IDLE. -/
theorem test_sched_rows :
    nextHas (exec (.schedFull false) (window 1200 0 true)) (fun t =>
      !t.block.energySent && t.block.base = 1200 && t.trace.length = 2) ∧
    nextHas (exec (.schedEnergy true) (window 700 0 false)) (fun t =>
      t.block.energySent && t.block.base = 0 && t.trace.length = 2) ∧
    nextHas (exec .schedIdle (window 999 0 true)) (fun t => t = window 999 0 true) := by decide

/-- V9: TICK, and its wrap. -/
theorem test_v9_tick :
    nextHas (exec .tick (window 0 0 false)) (fun t => t = window 1 0 false) ∧
    nextHas (exec .tick (window 0xFFFFFFFF 0 false)) (fun t => t = window 0 0 false) := by decide

/-- V9: RESET. -/
theorem test_v9_reset :
    nextHas (exec .reset { State.reset with
        block := ⟨⟨1, 2, 3, 4, 5⟩, [], 7, false, 77, 50, true⟩ })
      (fun t => t = State.reset) ∧
    nextHas (exec .reset (filled 128 true)) (fun t => t = State.reset) := by decide

/-- The DIAG rows' records at the port, and the two that hand over nothing. -/
theorem test_diag_rows :
    nextHas (exec .diagBufferOverflow State.reset) (fun t => t.trace = [.diag .bufferOverflow]) ∧
    nextHas (exec .diagTooShort State.reset) (fun t => t.trace = [.diag .tooShort]) ∧
    nextHas (exec .diagFieldCountMismatch State.reset) (fun t =>
      t.trace = [.diag .fieldCountMismatch]) ∧
    nextHas (exec .diagNone State.reset) (fun t => t = State.reset) ∧
    nextHas (exec (.diagUnused 3) State.reset) (fun t => t = State.reset) ∧
    diagRecord (.decodeFailure .current .notDecimal) = 0x42 ∧
    diagRecord (.decodeFailure .voltage .tokenTooLong) = 0x51 ∧
    diagRecord (.txStatus .energy false) = 0x61 ∧ diagRecord (.txStatus .full true) = 0x70 := by
  decide

/-- The rows of the records that carry a field or a frame. -/
theorem test_diag_rows_aux :
    nextHas (exec (.diagNotDecimal .speed) State.reset) (fun t =>
      t.trace = [.diag (.decodeFailure .speed .notDecimal)]) ∧
    nextHas (exec (.diagTokenTooLong .charge) State.reset) (fun t =>
      t.trace = [.diag (.decodeFailure .charge .tokenTooLong)]) ∧
    nextHas (exec (.diagTransmitFailure .full) State.reset) (fun t =>
      t.trace = [.diag (.txStatus .full false)]) ∧
    nextHas (exec (.diagTransmitOk .energy) State.reset) (fun t =>
      t.trace = [.diag (.txStatus .energy true)]) := by decide

/-- R10: the parameters of this hardware are coherent. -/
theorem test_hw_coherent : Config.hw.Coherent := by decide

/-- The ports of a POLL that sends, and idle (R250, R264, R265). -/
theorem test_ports :
    portsOf ⟨0x7FF, 15, 1⟩
        [.frame ⟨0x702, 4, [0x38, 0x0C, 0, 0]⟩, .diag (.txStatus .energy true)] =
      ⟨true, ⟨0x702, 4, 0x0C38⟩, true, 7, 1⟩ ∧
    portsOf ⟨0x7FF, 15, 1⟩ [] = ⟨false, ⟨0x7FF, 15, 1⟩, false, 0, 0⟩ ∧ telPort (holding []).block .speed = 9 := by decide

/-! ### Witnesses: states and operands that meet a statement's hypotheses, each clause at its bounds -/

/-- A cycle of all strobes but `rst`, with a terminator. -/
def busyCycle : Cycle :=
  { rst := false, tickInc := true, rxValid := true, rxData := 0x0A, poll := true, txOk := true }

/-- A cycle with no strobe. -/
def idleCycle : Cycle :=
  { rst := false, tickInc := false, rxValid := false, rxData := 0, poll := false, txOk := false }

/-- DecodeOfEncodeIsTheInstruction. -/
theorem witness_decode_of_encode :
    wellFormed (.feedAppend 0x09) = true ∧ wellFormed (.chOther 0x2F) = true ∧
    wellFormed (.append 0x0B) = true ∧ wellFormed (.decode []) = true ∧
    wellFormed (.decode [0x2D, 0x31, 0x2E]) = true := by decide

/-- DecodeOfEncodeIsTheInstruction, at the greatest length. -/
theorem witness_decode_of_encode_longest :
    wellFormed (.decode (List.replicate 124 0x30)) = true ∧
    wellFormed (.scan false (List.replicate 124 0x30)) = true := by
  simp [wellFormed, Config.maxToken, Config.lineCap, Config.nTabs]; decide

/-- EveryStateHasANextState: an ordinal of no row. -/
theorem witness_no_row :
    (presenting (.word .internal [10])).inbox = .word .internal [10] :: [] ∧
    decode .internal [10] = .error .noOrdinal := ⟨rfl, rfl⟩

/-- EventWordIsItsCycle: three strobes, and none. -/
theorem witness_event_word :
    (Cycle.ofBytes [0b0111, 0x0A, 1] = some busyCycle ∧ tailIsZero 3 [0b0111, 0x0A, 1] = true) ∧
    (Cycle.ofBytes [0b0000] = some idleCycle ∧ tailIsZero 3 [0b0000] = true) := by decide

/-- StepRunsTheDecodedWord: a word that is no event, and one of three. -/
theorem witness_step_word :
    (presenting (.word .diag [4, 2])).inbox = .word .diag [4, 2] :: [] ∧
    decode .diag [4, 2] = .ok (.diagNotDecimal .current) ∧ Format.diag ≠ .event ∧
    (presenting (.word .event [0b0111])).inbox = .word .event [0b0111] :: [] ∧
    decode .event [0b0111] = .ok .tick := ⟨rfl, rfl, by decide, rfl, rfl⟩

/-- CycleRunsTickThenFeedThenPoll: with `rst`, and with all the others. -/
theorem witness_cycle :
    (presenting (.cycle { busyCycle with rst := true })).inbox =
      .cycle { busyCycle with rst := true } :: [] ∧
    (presenting (.cycle busyCycle)).inbox = .cycle busyCycle :: [] ∧ busyCycle.rst = false ∧
    (if busyCycle.tickInc then [Instr.tick] else []) ++
      (if busyCycle.rxValid then [Instr.feed busyCycle.rxData] else []) ++
      (if busyCycle.poll then [Instr.poll busyCycle.txOk] else []) ≠ [] := by decide

/-- NoEventChangesNothing. -/
theorem witness_no_event :
    State.reset.inbox = [] ∧ (presenting (.cycle idleCycle)).inbox = .cycle idleCycle :: [] ∧
    idleCycle.rst = false ∧ idleCycle.tickInc = false ∧ idleCycle.rxValid = false ∧
    idleCycle.poll = false := by decide

/-- HardwareInputsAlwaysStep. -/
theorem witness_external : External (presenting (.cycle busyCycle)) := by decide

/-- FeedDispatchesOnTheByte: a terminator; a byte beside one while overflowed, at 128, at 127. -/
theorem witness_feed_dispatch :
    ((0x0D : Byte) = 0x0A ∨ (0x0D : Byte) = 0x0D) ∧ (0x0B : Byte) ≠ 0x0A ∧ (0x0B : Byte) ≠ 0x0D ∧
    (filled 128 true).block.ovf = true ∧
    ((filled 128 false).block.ovf = false ∧ (filled 128 false).block.len.val = 128) ∧
    ((filled 127 false).block.ovf = false ∧ (filled 127 false).block.len.val < 128) := by decide

/-- AppendStoresTheByteAtLen: at lengths 0 and 127. -/
theorem witness_append :
    (Instr.feedAppend 0x0C = .feed 0x0C ∨ Instr.feedAppend 0x0C = .feedAppend 0x0C ∨
      Instr.feedAppend 0x0C = .append 0x0C) ∧ (0x0C : Byte) ≠ 0x0A ∧ (0x0C : Byte) ≠ 0x0D ∧
    ((filled 0 false).block.buf.wf = true ∧ (filled 0 false).block.ovf = false ∧
      (filled 0 false).block.len.val < 128) ∧
    ((filled 127 false).block.buf.wf = true ∧ (filled 127 false).block.ovf = false ∧
      (filled 127 false).block.len.val < 128) := by decide

/-- FullBufferOverflowsOnceThenDrops. -/
theorem witness_overflow :
    (Instr.append 0xFF = .feed 0xFF ∨ Instr.append 0xFF = .feedAppend 0xFF ∨
      Instr.append 0xFF = .append 0xFF) ∧ (0xFF : Byte) ≠ 0x0A ∧ (0xFF : Byte) ≠ 0x0D ∧
    ((filled 128 false).block.ovf = false ∧ (filled 128 false).block.len.val = 128) ∧
    (filled 128 true).block.ovf = true := by decide

/-- TerminatorTokenizesAndClearsTheLine. -/
theorem witness_terminator :
    (Instr.feedCr = .feed 0x0A ∨ Instr.feedCr = .feed 0x0D ∨ Instr.feedCr = .feedLf ∨
      Instr.feedCr = .feedCr ∨ Instr.feedCr = .lineComplete) ∧
    (holding lineS1).block.ovf = false := by decide

/-- OverflowedLineIsDiscardedUnparsed. -/
theorem witness_discard :
    (Instr.lineComplete = .feed 0x0A ∨ Instr.lineComplete = .feed 0x0D ∨
      Instr.lineComplete = .feedLf ∨ Instr.lineComplete = .feedCr ∨
      Instr.lineComplete = .lineComplete) ∧ (filled 128 true).block.ovf = true := by decide

/-- EachTerminatorMoreIsOneTooShort: CR LF. -/
theorem witness_terminators :
    (∀ b ∈ (0x0D : Byte) :: [0x0A], b = 0x0A ∨ b = 0x0D) ∧ (filled 0 false).block.ovf = false ∧
    (filled 0 false).block.len = 0 := by decide

/-- FedLineIsTheLineTokenized: the empty line, and the longest. -/
theorem witness_fed_line :
    (State.reset.block.buf.wf = true ∧ State.reset.block.len = 0 ∧
      State.reset.block.ovf = false) ∧
    ([] : List Byte).length ≤ 128 ∧ (List.replicate 128 (0x31 : Byte)).length ≤ 128 ∧
    (∀ b ∈ List.replicate 128 (0x31 : Byte), b ≠ 0x0A ∧ b ≠ 0x0D) ∧
    ((0x0A : Byte) = 0x0A ∨ (0x0A : Byte) = 0x0D) := by
  refine ⟨by decide, by simp, by simp, ?_, by decide⟩
  intro b hb
  rw [List.eq_of_mem_replicate hb]
  decide

/-- OverlongLineIsRejectedWhole: 129 bytes. -/
theorem witness_overlong :
    (State.reset.block.len = 0 ∧ State.reset.block.ovf = false) ∧
    128 < (List.replicate 129 (0x09 : Byte)).length ∧
    (∀ b ∈ List.replicate 129 (0x09 : Byte), b ≠ 0x0A ∧ b ≠ 0x0D) ∧
    ((0x0D : Byte) = 0x0A ∨ (0x0D : Byte) = 0x0D) := by
  refine ⟨by decide, by simp, ?_, by decide⟩
  intro b hb
  rw [List.eq_of_mem_replicate hb]
  decide

/-- StructuralChecksInOrder: one byte that is a tab; two of which the first is; none of the two; five
tabs. -/
theorem witness_structural :
    (lineBytes (holding [0x09]).block).length < 2 ∧
    (2 ≤ (lineBytes (holding [0x09, 0x31]).block).length ∧
      (lineBytes (holding [0x09, 0x31]).block).head? = some 0x09) ∧
    (2 ≤ (lineBytes (holding [0x31, 0x32]).block).length ∧
      (lineBytes (holding [0x31, 0x32]).block).head? ≠ some 0x09 ∧
      (lineBytes (holding [0x31, 0x32]).block).count 0x09 ≠ 4) ∧
    (2 ≤ (lineBytes (holding [0x31, 9, 9, 9, 9, 9]).block).length ∧
      (lineBytes (holding [0x31, 9, 9, 9, 9, 9]).block).head? ≠ some 0x09 ∧
      (lineBytes (holding [0x31, 9, 9, 9, 9, 9]).block).count 0x09 ≠ 4) := by decide

/-- FieldsAreTheStretchesBetweenTabs, its last clause. -/
theorem witness_fields :
    lineOnes ≠ [] ∧ lineOnes.head? ≠ some 0x09 := by decide

/-- FieldsBeforeAFailureStayWritten: the checks hold of both lines. -/
theorem witness_partial_checks :
    (2 ≤ (lineBytes (holding lineBad2).block).length ∧
      (lineBytes (holding lineBad2).block).head? ≠ some 0x09 ∧
      (lineBytes (holding lineBad2).block).count 0x09 = 4) ∧
    (2 ≤ (lineBytes (holding lineOnes).block).length ∧
      (lineBytes (holding lineOnes).block).head? ≠ some 0x09 ∧
      (lineBytes (holding lineOnes).block).count 0x09 = 4) := by decide

/-- FieldsBeforeAFailureStayWritten: field 2 is the first to fail; and no field fails. -/
theorem witness_partial_fields :
    (decodeToken Config.hw
        ((fieldTokens (lineBytes (holding lineBad2).block)).getD (fieldIndex .current) []) =
      .error .notDecimal ∧
    ∀ j, fieldIndex j < fieldIndex .current →
      decodeToken Config.hw
          ((fieldTokens (lineBytes (holding lineBad2).block)).getD (fieldIndex j) []) =
        .value (if j = .charge then 1500 else 2500)) ∧
    ∀ j, decodeToken Config.hw
        ((fieldTokens (lineBytes (holding lineOnes).block)).getD (fieldIndex j) []) =
      .value 1000 := by
  refine ⟨⟨by decide, ?_⟩, ?_⟩ <;> intro j <;> cases j <;> decide

/-- AtomicPolicyDiffersOnlyAfterAFailure: a line that fails, and one that does not. -/
theorem witness_atomic :
    (tokenizeLine { Config.hw with commitPolicy := .partialWrite } lineBad2 (allRegs 9)).2 =
      .decodeFailure .current .notDecimal ∧
    (tokenizeLine { Config.hw with commitPolicy := .atomic } lineBad2 (allRegs 9)).2 ≠ .ok ∧
    (tokenizeLine { Config.hw with commitPolicy := .partialWrite } lineOnes (allRegs 9)).2 =
      .ok := by decide

/-- OkLineDecidesAllRegisters. -/
theorem witness_ok_line : (tokenizeLine Config.hw lineOnes (allRegs 9)).2 = .ok := by decide

/-- WellFormedTokenDecodesToItsMilliValue: one digit and four. -/
theorem witness_well_formed_token :
    (([9] : List (Fin 10)) ≠ [] ∧ ([9] : List (Fin 10)).length ≤ 4) ∧
    (([9, 9, 9, 9] : List (Fin 10)) ≠ [] ∧ ([9, 9, 9, 9] : List (Fin 10)).length ≤ 4) := by decide

/-- DecodeRefusesExactlySo: five bytes, with and without a sign. -/
theorem witness_refused_token :
    ((0x2E : Byte) ∉ [0x31, 0x32, 0x33, 0x34, (0x35 : Byte)] ∧
      4 < 5 - (if [0x31, 0x32, 0x33, 0x34, (0x35 : Byte)].head? = some 0x2B ∨
        [0x31, 0x32, 0x33, 0x34, (0x35 : Byte)].head? = some 0x2D then 1 else 0)) ∧
    ((0x2E : Byte) ∉ [0x2D, 0x31, 0x32, 0x33, 0x34, (0x35 : Byte)] ∧
      4 < 6 - (if [0x2D, 0x31, 0x32, 0x33, 0x34, (0x35 : Byte)].head? = some 0x2B ∨
        [0x2D, 0x31, 0x32, 0x33, 0x34, (0x35 : Byte)].head? = some 0x2D then 1 else 0)) := by
  decide

/-- DecodeRefusesExactlySo, its second clause: a token of each error. -/
theorem witness_refusal :
    exec (.decode [0x2E]) State.reset =
      .next (State.reset.returned (.decoded (.error .notDecimal))) ∧
    exec (.decode [0x31, 0x32, 0x33, 0x34, 0x35, 0x2E]) State.reset =
      .next (State.reset.returned (.decoded (.error .tokenTooLong))) := ⟨rfl, rfl⟩

/-- EveryOtherTokenDecodesToAValue: a sign alone, and four bytes after one. -/
theorem witness_other_token :
    ((0x2E : Byte) ∉ [(0x2D : Byte)] ∧ [(0x2D : Byte)] ≠ [] ∧
      1 - (if [(0x2D : Byte)].head? = some 0x2B ∨ [(0x2D : Byte)].head? = some 0x2D
        then 1 else 0) ≤ 4) ∧
    ((0x2E : Byte) ∉ [0x2B, 0x31, 0x61, 0x33, (0x34 : Byte)] ∧
      [0x2B, 0x31, 0x61, 0x33, (0x34 : Byte)] ≠ [] ∧
      5 - (if [0x2B, 0x31, 0x61, 0x33, (0x34 : Byte)].head? = some 0x2B ∨
        [0x2B, 0x31, 0x61, 0x33, (0x34 : Byte)].head? = some 0x2D then 1 else 0) ≤ 4) := by decide

/-- DecodedValuesNeverWrap: the greatest value. -/
theorem witness_values :
    Config.hw.Coherent ∧
    decodeToken Config.hw [0x39, 0x39, 0x39, 0x39, 0x2E, 0x39, 0x39, 0x39] =
      .value 9999999 := by decide

/-- ScanReadsTheLeadingDigits: the bytes beside the digits, the end, and no digit with no sign. -/
theorem witness_scan :
    (∀ c, [(0x2F : Byte)].head? = some c → c < 0x30 ∨ 0x39 < c) ∧
    (∀ c, [(0x3A : Byte)].head? = some c → c < 0x30 ∨ 0x39 < c) ∧
    (∀ c, ([] : List Byte).head? = some c → c < 0x30 ∨ 0x39 < c) ∧
    ((0x2D : Byte) = 0x2B ∨ (0x2D : Byte) = 0x2D) ∧ ([7] : List (Fin 10)) ≠ [] ∧
    ([(0x2F : Byte)].head? ≠ some 0x2B ∧ [(0x2F : Byte)].head? ≠ some 0x2D) := by
  refine ⟨?_, ?_, ?_, by decide, by decide, by decide⟩ <;> intro c h <;> simp at h <;>
    subst h <;> decide

/-- CharRowsAdvanceTheScan: each clause. -/
theorem witness_char_rows :
    (seeing TokenScan.start).scratch.tok.point = none ∧
    (seeing TokenScan.start).scratch.tok.seen = 0 ∧
    (seeing TokenScan.start).scratch.tok.intStop = false ∧
    (seeing { TokenScan.start with seen := 1, intStop := true }).scratch.tok.point = none ∧
    (seeing { TokenScan.start with seen := 1, intStop := true }).scratch.tok.seen ≠ 0 ∧
    (seeing { TokenScan.start with seen := 1, intStop := true }).scratch.tok.intStop = true ∧
    (seeing { TokenScan.start with seen := 4, point := some 1, kept := 2 }).scratch.tok.point ≠
      none ∧
    (seeing { TokenScan.start with seen := 4, point := some 1, kept := 2 }).scratch.tok.kept < 3 ∧
    (seeing { TokenScan.start with seen := 4, point := some 1, kept := 2 }).scratch.tok.fracStop =
      false ∧
    (seeing { TokenScan.start with
      seen := 4, point := some 1, kept := 2, fracStop := true }).scratch.tok.fracStop = true ∧
    3 ≤ (seeing { TokenScan.start with seen := 5, point := some 1, kept := 3 }).scratch.tok.kept ∧
    (seeing { TokenScan.start with seen := 5, point := some 1, kept := 3 }).scratch.tok.point ≠
      none := by decide

/-- CharRowsRunOverALineAreItsDecodes. -/
theorem witness_char_run :
    (holding lineS1).scratch.tok = TokenScan.start ∧ (holding lineS1).scratch.closed = [] := by
  decide

/-- PollTakesTheFirstDueCase: 1000; 999 and 500 not yet attempted; 499; 999 attempted. -/
theorem witness_poll :
    1000 ≤ ((window 999 0xFFFFFFFF true).block.tick.toNat + 2 ^ 32 -
      (window 999 0xFFFFFFFF true).block.base.toNat) % 2 ^ 32 ∧
    (((window 999 0 false).block.tick.toNat + 2 ^ 32 -
        (window 999 0 false).block.base.toNat) % 2 ^ 32 < 1000 ∧
      500 ≤ ((window 500 0 false).block.tick.toNat + 2 ^ 32 -
        (window 500 0 false).block.base.toNat) % 2 ^ 32 ∧
      ((window 500 0 false).block.tick.toNat + 2 ^ 32 -
        (window 500 0 false).block.base.toNat) % 2 ^ 32 < 1000 ∧
      (window 500 0 false).block.energySent = false) ∧
    ((window 499 0 false).block.tick.toNat + 2 ^ 32 -
      (window 499 0 false).block.base.toNat) % 2 ^ 32 < 500 ∧
    (((window 999 0 true).block.tick.toNat + 2 ^ 32 -
        (window 999 0 true).block.base.toNat) % 2 ^ 32 < 1000 ∧
      (window 999 0 true).block.energySent = true) := by decide

/-- PollSeesOnlyTheElapsedTicks. -/
theorem witness_poll_next :
    exec (.poll true) (window 5 1 false) = .next (window 5 1 false) := rfl

/-- EachFrameOncePerThousandTicks: a window that begins just before the wrap. -/
theorem witness_cadence :
    (window 0xFFFFFF00 0xFFFFFF00 false).block.tick =
      (window 0xFFFFFF00 0xFFFFFF00 false).block.base ∧
    (window 0xFFFFFF00 0xFFFFFF00 false).block.energySent = false ∧
    499 < 500 ∧ 500 ≤ 500 ∧ 500 < 1000 ∧ 500 ≤ 999 ∧ 999 < 1000 := by decide

/-- DiagRowsHandOverTheirRecord: one row of each kind of record. -/
theorem witness_diag_rows :
    (Instr.diagTooShort = .diagTooShort ∧ Diag.tooShort = .tooShort) ∧
    (∃ k, Instr.diagNotDecimal .distance = .diagNotDecimal k ∧
      Diag.decodeFailure .distance .notDecimal = .decodeFailure k .notDecimal) ∧
    (∃ f, Instr.diagTransmitOk .energy = .diagTransmitOk f ∧
      Diag.txStatus .energy true = .txStatus f true) :=
  ⟨⟨rfl, rfl⟩, ⟨_, rfl, rfl⟩, ⟨_, rfl, rfl⟩⟩

/-- EachStateHasItsWriters: an instruction for each of its clauses that changes what it says. -/
theorem witness_writers :
    nextHas (exec (.writeField .speed 1) State.reset) (fun t =>
      decide (t.block.x ≠ State.reset.block.x)) ∧
    nextHas (exec (.feed 0x31) State.reset) (fun t =>
      decide (t.block.len ≠ State.reset.block.len)) ∧
    nextHas (exec .tick State.reset) (fun t =>
      decide (t.block.tick ≠ State.reset.block.tick)) ∧
    nextHas (exec (.schedFull true) (window 1000 0 true)) (fun t =>
      decide (t.block.base ≠ 0 ∧ t.block.energySent ≠ true)) := by decide

/-- SchedulerAndLinePathShareOnlyRegisters: a FEED that reports, and POLLs that send. -/
theorem witness_shared :
    exec (.feed 0x0A) (window 1000 0 true) =
      .next { window 1000 0 true with trace := [.diag .tooShort] } ∧
    exec (.poll true) (window 1000 0 true) =
      .next { window 1000 1000 false with
        trace := [.frame ⟨0x700, 8, [0, 0, 0, 0, 0, 0, 0, 0]⟩, .diag (.txStatus .full true)] } ∧
    exec (.poll true) { window 1000 0 true with trace := [.diag .tooShort] } =
      .next { window 1000 1000 false with
        trace := [.diag .tooShort, .frame ⟨0x700, 8, [0, 0, 0, 0, 0, 0, 0, 0]⟩,
          .diag (.txStatus .full true)] } := ⟨rfl, rfl, rfl⟩

/-- EveryStepKeepsTheLineInvariant and EveryHardwareStepKeepsTheRegistersInRange: a cycle with a line
held, and the step it makes. -/
theorem witness_invariants :
    LineInv (holding lineOnes).block ∧ RegsInRange (holding lineOnes).block.x ∧
    External { holding lineOnes with inbox := [.cycle busyCycle] } ∧
    nextHas (step { holding lineOnes with inbox := [.cycle busyCycle] })
      (fun t => t.block.tick = 1) := by decide

/-- BytesAboveLenAreNotObservable: a byte at index 3 above a length of 1. -/
theorem witness_above_len :
    External { holding [0x31] with inbox := [.cycle busyCycle] } ∧
    (holding [0x31]).block.buf.wf = true ∧ Memory.wf [(0, 0x31), (3, 0x55)] = true ∧
    lineBytes { (holding [0x31]).block with buf := [(0, 0x31), (3, 0x55)] } =
      lineBytes (holding [0x31]).block ∧
    nextHas (step { holding [0x31] with inbox := [.cycle busyCycle] })
      (fun t => t.block.tick = 1) := by decide

end Sys2Proof.Tests
end

