-- ==== Sys2Proof/Proofs/DecodedValues.lean ====
section
/-! PROOF. The values DECODE returns: how large SCAN's result can be, and that the signed result is exact
(42_fixed_point_decoder.md R168, R171, R172, R176). -/

namespace Sys2Proof.Machine

/-- Each byte scanned adds at most one decimal digit to the accumulator (R168). -/
theorem scanDigits_lt (s : List Byte) (acc : Nat) :
    scanDigits acc s < (acc + 1) * 10 ^ s.length := by
  induction s generalizing acc with
  | nil => simp [scanDigits]
  | cons c rest ih =>
    have hpow : 0 < 10 ^ rest.length := by positivity
    rw [List.length_cons, pow_succ']
    cases hc : isDigit c with
    | true =>
      rw [scanDigits_digit hc]
      calc scanDigits (acc * 10 + digitVal c) rest
          < (acc * 10 + digitVal c + 1) * 10 ^ rest.length := ih _
        _ ≤ ((acc + 1) * 10) * 10 ^ rest.length :=
          Nat.mul_le_mul_right _ (by have := digitVal_le hc; omega)
        _ = (acc + 1) * (10 * 10 ^ rest.length) := Nat.mul_assoc ..
    | false =>
      rw [scanDigits_stop hc]
      calc acc < acc + 1 := Nat.lt_succ_self acc
        _ ≤ (acc + 1) * (10 * 10 ^ rest.length) := Nat.le_mul_of_pos_right _ (by omega)

/-- SCAN's result has at most as many digits as the string has bytes, a skipped sign not counted
(R168, R169). -/
theorem scan_lt (signAllowed : Bool) (s : List Byte) :
    scan signAllowed s < 10 ^ (s.length - (if signAllowed && hasSign s then 1 else 0)) := by
  unfold scan
  split
  · simpa using scanDigits_lt s.tail 0
  · simpa using scanDigits_lt s 0

/-- A token's bytes before a point that is not its first byte begin with the token's own first byte. -/
theorem hasSign_slice_zero {p : Nat} (hp : p ≠ 0) (t : List Byte) :
    hasSign (slice t 0 p) = hasSign t := by
  obtain ⟨q, rfl⟩ := Nat.exists_eq_succ_of_ne_zero hp
  cases t <;> rfl

/-- The integer part of a token that is not too long is below 10^INT_MAX_CHARS (R163, R172). -/
theorem scan_integerPart_lt {n p : Nat} {t : List Byte} (hp : p ≠ 0)
    (hlen : p - (if hasSign t then 1 else 0) ≤ n) : scan true (slice t 0 p) < 10 ^ n := by
  have hslice : (slice t 0 p).length ≤ p := by simp [slice]
  have hscan := scan_lt true (slice t 0 p)
  rw [Bool.true_and, hasSign_slice_zero hp] at hscan
  exact hscan.trans_le (Nat.pow_le_pow_right (by decide) (by omega))

/-- The kept fraction is below 10^FRAC_DIGITS (R167, R172). -/
theorem scan_norm3_lt (P : Params) (fp : List Byte) :
    scan false (norm3 P fp) < 10 ^ P.fracDigits := by
  simpa using scan_lt false (norm3 P fp)

/-- R10 keeps every decodable magnitude a non-negative value of FIELD_W signed bits. -/
theorem magnitude_lt_of_coherent {P : Params} (hP : P.Coherent) {I F : Nat}
    (hI : I < 10 ^ P.intMaxChars) (hF : F < P.scale) : I * P.scale + F < 2 ^ (Config.fieldW - 1) := by
  obtain ⟨-, -, -, -, -, -, hfits, -⟩ := hP
  have hmul : I * P.scale ≤ (10 ^ P.intMaxChars - 1) * P.scale := Nat.mul_le_mul_right _ (by omega)
  omega

/-- A magnitude that fits is signed without being cut (R171, R176). -/
theorem toInt_signedMilli (neg : Bool) {v : Nat} (hv : v < 2 ^ (Config.fieldW - 1)) :
    (signedMilli neg v).toInt = (if neg then -1 else 1) * (v : Int) := by
  have hv : (v : Int) < 2 ^ (Config.fieldW - 1) := by exact_mod_cast hv
  cases neg with
  | true =>
    simp only [signedMilli, if_true]
    rw [BitVec.toInt_ofInt_eq_self (by decide) (by omega) (by omega)]
    omega
  | false =>
    simp only [signedMilli, Bool.false_eq_true, if_false]
    rw [BitVec.toInt_ofInt_eq_self (by decide) (by omega) hv]
    omega

/-- Under coherent parameters a decoded value is the exact signed sum of its two bounded parts (R10,
R171, R172). -/
theorem decodeToken_value_exact {P : Params} {t : List Byte} {v : FieldWord} (hP : P.Coherent)
    (h : decodeToken P t = .value v) :
    ∃ p, findPoint t = some p ∧
      let I := scan true (slice t 0 p)
      let F := scan false (norm3 P (slice t (p + 1) t.length))
      I < 10 ^ P.intMaxChars ∧ F < P.scale ∧
      v.toInt = (if isNegative t then -1 else 1) * ((I : Int) * P.scale + F) := by
  obtain ⟨-, he⟩ | ⟨-, he⟩ | ⟨_, -, -, -, he⟩ | ⟨p, hpoint, hp, hlen, hv⟩ := decodeToken_cases P t
  · rw [he] at h; cases h
  · rw [he] at h; cases h
  · rw [he] at h; cases h
  · rw [hv] at h
    cases h
    have ⟨_, _, hscale, _⟩ := hP
    have hI := scan_integerPart_lt hp hlen
    have hF : scan false (norm3 P (slice t (p + 1) t.length)) < P.scale :=
      hscale ▸ scan_norm3_lt P _
    refine ⟨p, hpoint, hI, hF, ?_⟩
    rw [toInt_signedMilli _ (magnitude_lt_of_coherent hP hI hF), Nat.cast_add, Nat.cast_mul]

/-- This hardware's parameters keep the relations of R10. -/
theorem hw_coherent : Config.hw.Coherent := by decide

/-- R172: this hardware's parts are below 10^4 and 1000, which bounds the value on both sides. -/
theorem decodeToken_hw_range {t : List Byte} {v : FieldWord}
    (h : decodeToken Config.hw t = .value v) : -9999999 ≤ v.toInt ∧ v.toInt ≤ 9999999 := by
  obtain ⟨p, -, hI, hF, hv⟩ := decodeToken_value_exact hw_coherent h
  simp only [Config.hw] at hI hF hv
  rw [hv]
  split <;> omega

/-- Settles O29, by bounding the integer part and the kept fraction by their numbers of digits. -/
theorem decodedValuesNeverWrap : Obligations.DecodedValuesNeverWrap :=
  ⟨fun _ _ _ hP h => decodeToken_value_exact hP h, fun _ _ h => decodeToken_hw_range h⟩

end Sys2Proof.Machine
end

/-! PROOF. The state as a whole: what an instruction can do to the block, the invariants of R40 along every
step, who writes what (R35), and that the bytes above `len` show nowhere (R28). -/

namespace Sys2Proof.Machine

/-! ### What an instruction can do to the block -/

/-- The instructions that run LINE_COMPLETE: a terminator fed, and the rows for it (R122, R126). -/
def EndsLine (i : Instr) : Prop :=
  (∃ b, i = .feed b ∧ isTerminator b = true) ∨ i = .feedLf ∨ i = .feedCr ∨ i = .lineComplete

/-- The instructions that run APPEND of a byte: a data byte fed, and the rows for it (R122, R123). -/
def Appends (b : Byte) (i : Instr) : Prop :=
  (i = .feed b ∧ isTerminator b = false) ∨ i = .feedAppend b ∨ i = .append b

/-- Everything an instruction can make of the block, one constructor for each way; that `exec` does
nothing else is `exec_blockStep`. -/
inductive BlockStep (i : Instr) (m : Block) : Block → Prop
  | unchanged : BlockStep i m m
  | reset (hi : i = .reset) : BlockStep i m Block.reset
  | tick (hi : i = .tick) : BlockStep i m (tickBlock m)
  | discard (hi : EndsLine i) (hovf : m.ovf = true) : BlockStep i m (setOvf false (clearLine m))
  | complete (hi : EndsLine i) (hovf : m.ovf = false) :
      BlockStep i m (clearLine { m with x := (tokenizeLine Config.hw (lineBytes m) m.x).1 })
  | store (b : Byte) (hi : Appends b i) (hovf : m.ovf = false) (hlen : m.len.val < Config.lineCap) :
      BlockStep i m (storeByte b m hlen)
  | overflow (b : Byte) (hi : Appends b i) (hovf : m.ovf = false)
      (hlen : m.len.val = Config.lineCap) : BlockStep i m (setOvf true m)
  | tokenize (hi : i = .tokenize) :
      BlockStep i m { m with x := (tokenizeLine Config.hw (lineBytes m) m.x).1 }
  | writeField (k : Field) (v : FieldWord) (hi : i = .writeField k v) :
      BlockStep i m (writeField k v m)
  | full (ok : Bool) (hi : i = .poll ok ∨ i = .schedFull ok) :
      BlockStep i m (setEnergySent false { m with base := m.tick })
  | energy (ok : Bool) (hi : i = .poll ok ∨ i = .schedEnergy ok) :
      BlockStep i m (setEnergySent true m)

theorem completeLine_blockStep {i : Instr} (hi : EndsLine i) (m : Block) :
    BlockStep i m (completeLine Config.hw m).1 := by
  obtain ⟨hovf, he⟩ | ⟨hovf, he⟩ := completeLine_cases Config.hw m
  · rw [he]; exact .discard hi hovf
  · rw [he]; exact .complete hi hovf

theorem appendByte_blockStep {i : Instr} {b : Byte} (hi : Appends b i) (m : Block) :
    BlockStep i m (appendByte b m).1 := by
  obtain ⟨-, he⟩ | ⟨hovf, hlen, he⟩ | ⟨hovf, hlen, he⟩ := appendByte_cases b m
  · rw [he]; exact .unchanged
  · rw [he]; exact .store b hi hovf hlen
  · rw [he]; exact .overflow b hi hovf hlen

theorem feedByte_blockStep (b : Byte) (m : Block) :
    BlockStep (.feed b) m (feedByte Config.hw b m).1 := by
  cases hb : isTerminator b with
  | true =>
    rw [feedByte_terminator _ hb]
    exact completeLine_blockStep (.inl ⟨b, rfl, hb⟩) m
  | false =>
    rw [feedByte_data _ hb]
    exact appendByte_blockStep (.inl ⟨rfl, hb⟩) m

theorem pollBlock_blockStep (ok : Bool) (m : Block) :
    BlockStep (.poll ok) m (pollBlock Config.hw ok m).1 := by
  obtain ⟨-, he⟩ | ⟨-, -, -, he⟩ | ⟨-, -, he⟩ := pollBlock_cases Config.hw ok m
  · rw [he]; exact .full ok (.inl rfl)
  · rw [he]; exact .energy ok (.inl rfl)
  · rw [he]; exact .unchanged

/-- The inversion of `exec` on the block. -/
theorem exec_blockStep {i : Instr} {s t : State} (h : exec i s = .next t) :
    BlockStep i s.block t.block := by
  cases i with
  | feedLf => cases h; exact completeLine_blockStep (.inr (.inl rfl)) _
  | feedCr => cases h; exact completeLine_blockStep (.inr (.inr (.inl rfl))) _
  | lineComplete => cases h; exact completeLine_blockStep (.inr (.inr (.inr rfl))) _
  | feedAppend b => cases h; exact appendByte_blockStep (.inr (.inl rfl)) _
  | append b => cases h; exact appendByte_blockStep (.inr (.inr rfl)) _
  | feed b => cases h; exact feedByte_blockStep b _
  | poll ok => cases h; exact pollBlock_blockStep ok _
  | reset => cases h; exact .reset rfl
  | tick => cases h; exact .tick rfl
  | tokenize => cases h; exact .tokenize rfl
  | writeField k v => cases h; exact .writeField k v rfl
  | schedFull ok => cases h; exact .full ok (.inr rfl)
  | schedEnergy ok => cases h; exact .energy ok (.inr rfl)
  | _ => cases h; exact .unchanged

/-! ### What a step runs -/

/-- The four events, all that the hardware's inputs can present (R90, R220). -/
def isEvent : Instr → Bool
  | .reset | .tick | .feed _ | .poll _ => true
  | _ => false

theorem isEvent_of_firstEvent {c : Cycle} {i : Instr} (h : c.firstEvent = some i) :
    isEvent i = true := by
  unfold Cycle.firstEvent at h
  split_ifs at h <;> cases h <;> rfl

theorem wellFormed_of_isEvent {i : Instr} (h : isEvent i = true) : wellFormed i = true := by
  cases i with
  | reset | tick | feed | poll => rfl
  | _ => cases h

/-- An event leaves what is presented next alone. -/
theorem exec_event_inbox {i : Instr} {s t : State} (hi : isEvent i = true)
    (h : exec i s = .next t) : t.inbox = s.inbox := by
  cases i with
  | reset | tick | feed | poll => cases h; rfl
  | _ => cases hi

theorem step_of_idle {s t : State} (h : fetch s = .idle t) : step s = .next t := by
  unfold step; rw [h]

theorem step_of_run {s t : State} {i : Instr} (h : fetch s = .run i t) : step s = exec i t := by
  unfold step; rw [h]

/-- A step leaves the block alone or runs one well-formed instruction on it. -/
theorem step_blockStep {s t : State} (h : step s = .next t) :
    t.block = s.block ∨ ∃ i, wellFormed i = true ∧ BlockStep i s.block t.block := by
  obtain ⟨-, hf⟩ | ⟨c, rest, -, ⟨-, hf⟩ | ⟨i, hc, hf⟩⟩ | ⟨f, bs, rest, -, ⟨_, -, hf⟩ | ⟨i, hd, hf⟩⟩ :=
    fetch_cases s
  · rw [step_of_idle hf] at h; cases h; exact .inl rfl
  · rw [step_of_idle hf] at h; cases h; exact .inl rfl
  · have hstep := exec_blockStep ((step_of_run hf).symm.trans h)
    exact .inr ⟨i, wellFormed_of_isEvent (isEvent_of_firstEvent hc), hstep⟩
  · rw [step_of_idle hf] at h; cases h; exact .inl rfl
  · have hstep := exec_blockStep ((step_of_run hf).symm.trans h)
    exact .inr ⟨i, decode_wellFormed hd, hstep⟩

/-- On the hardware's inputs what a step runs is fixed by the inbox alone: whatever the block is, it is
no event, or one and the same event (R33, R90). -/
theorem step_external {s : State} (hs : External s) :
    ∃ inbox : List Entry, (∀ e ∈ inbox, e.isCycle = true) ∧
      ((∀ m, step { s with block := m } = .next { s with block := m, inbox := inbox }) ∨
       ∃ i, isEvent i = true ∧
        ∀ m, step { s with block := m } = exec i { s with block := m, inbox := inbox }) := by
  obtain ⟨block, scratch, inbox, trace⟩ := s
  match inbox, hs with
  | [], hs => exact ⟨[], hs, .inl fun m => step_of_idle rfl⟩
  | .word f bs :: rest, hs => exact absurd (hs (.word f bs) (by simp)) Bool.false_ne_true
  | .cycle c :: rest, hs =>
    have hrest : ∀ e ∈ rest, e.isCycle = true := (List.forall_mem_cons.1 hs).2
    cases hc : c.firstEvent with
    | none =>
      refine ⟨rest, hrest, .inl fun m => step_of_idle ?_⟩
      simp only [fetch, fetchCycle, hc]
    | some i =>
      refine ⟨c.remainder.map Entry.cycle ++ rest, ?_,
        .inr ⟨i, isEvent_of_firstEvent hc, fun m => step_of_run ?_⟩⟩
      · exact List.forall_mem_append.2 ⟨List.forall_mem_map.2 fun _ _ => rfl, hrest⟩
      · simp only [fetch, fetchCycle, hc]

/-! ### The invariants of R40 -/

theorem lineBytes_congr {m m' : Block} (hbuf : m'.buf = m.buf) (hlen : m'.len = m.len) :
    lineBytes m' = lineBytes m := by
  unfold lineBytes; rw [hbuf, hlen]

theorem lineInv_congr {m m' : Block} (hm : LineInv m) (hbuf : m'.buf = m.buf)
    (hlen : m'.len = m.len) (hovf : m'.ovf = m.ovf) : LineInv m' := by
  unfold LineInv; rw [lineBytes_congr hbuf hlen, hbuf, hlen, hovf]; exact hm

/-- A cleared buffer meets the invariant once `ovf` is clear. -/
theorem lineInv_of_empty {m : Block} (hwf : m.buf.wf = true) (hovf : m.ovf = false)
    (hline : lineBytes m = []) : LineInv m :=
  ⟨hwf, by simp [hovf], by simp [hline]⟩

theorem lineInv_reset : LineInv Block.reset := lineInv_of_empty rfl rfl rfl

/-- The byte appended is no terminator: FEED's dispatch sees to it, and the rows take no other operand
(R122, R123). -/
theorem isTerminator_of_appends {i : Instr} {b : Byte} (hi : Appends b i) (hw : wellFormed i = true) :
    isTerminator b = false := by
  obtain ⟨-, hb⟩ | rfl | rfl := hi
  · exact hb
  · simpa [wellFormed] using hw
  · simpa [wellFormed] using hw

theorem lineInv_storeByte {m : Block} {b : Byte} (hm : LineInv m) (hb : isTerminator b = false)
    (hovf : m.ovf = false) (hlen : m.len.val < Config.lineCap) : LineInv (storeByte b m hlen) := by
  obtain ⟨hwf, -, hline⟩ := hm
  refine ⟨write_keeps_wf hwf hlen b, by simp [hovf], ?_⟩
  rw [lineBytes_storeByte hwf, List.forall_mem_append]
  exact ⟨hline, by simpa using hb⟩

theorem blockStep_keeps_lineInv {i : Instr} {m m' : Block} (hw : wellFormed i = true)
    (h : BlockStep i m m') (hm : LineInv m) : LineInv m' := by
  have ⟨hwf, _, hline⟩ := hm
  cases h with
  | unchanged => exact hm
  | reset => exact lineInv_reset
  | discard => exact lineInv_of_empty hwf rfl rfl
  | complete _ hovf => exact lineInv_of_empty hwf hovf rfl
  | store b hi hovf hlen => exact lineInv_storeByte hm (isTerminator_of_appends hi hw) hovf hlen
  | overflow b hi hovf hlen => exact ⟨hwf, fun _ => hlen, hline⟩
  | tick | tokenize | writeField | full | energy => exact lineInv_congr hm rfl rfl rfl

/-- Settles O47, by the ways in which an instruction can change the block. -/
theorem everyStepKeepsTheLineInvariant : Obligations.EveryStepKeepsTheLineInvariant := by
  intro s t hs h
  obtain hsame | ⟨i, hw, hstep⟩ := step_blockStep h
  · rwa [hsame]
  · exact blockStep_keeps_lineInv hw hstep hs

theorem regsInRange_zero : RegsInRange Regs.zero := by decide

theorem regsInRange_set {x : Regs} {v : FieldWord} (hx : RegsInRange x)
    (hv : -9999999 ≤ v.toInt ∧ v.toInt ≤ 9999999) (k : Field) : RegsInRange (x.set k v) := by
  intro j hj
  by_cases hjk : j = k
  · subst hjk; rwa [get_set_same]
  · rw [get_set_other x v hjk]; exact hx j hj

/-- The loop of TOKENIZE writes decoded values only, so R172 bounds what it writes. -/
theorem decodeFields_keeps_range (fs : List (Field × List Byte)) {x : Regs} (hx : RegsInRange x) :
    RegsInRange (decodeFields Config.hw fs x).1 := by
  induction fs generalizing x with
  | nil => exact hx
  | cons kt rest ih =>
    obtain ⟨k, t⟩ := kt
    cases hd : decodeToken Config.hw t with
    | error e => rw [decodeFields_error hd]; exact hx
    | value v =>
      rw [decodeFields_value hd]
      exact ih (regsInRange_set hx (decodeToken_hw_range hd) k)

theorem tokenizeLine_keeps_range (l : List Byte) {x : Regs} (hx : RegsInRange x) :
    RegsInRange (tokenizeLine Config.hw l x).1 := by
  obtain ⟨-, he⟩ | ⟨-, -, he⟩ | ⟨-, -, -, he⟩ | ⟨-, -, -, he⟩ := tokenizeLine_cases Config.hw l x
  · rw [he]; exact hx
  · rw [he]; exact hx
  · rw [he]; exact hx
  · rw [he]; exact decodeFields_keeps_range _ hx

/-- An event writes registers by TOKENIZE and RESET alone; the row WRITE_FIELD, which checks no range
(R191), is none. -/
theorem blockStep_event_keeps_range {i : Instr} {m m' : Block} (hi : isEvent i = true)
    (h : BlockStep i m m') (hm : RegsInRange m.x) : RegsInRange m'.x := by
  cases h with
  | reset => exact regsInRange_zero
  | complete | tokenize => exact tokenizeLine_keeps_range _ hm
  | writeField k v hi' => subst hi'; cases hi
  | unchanged | tick | discard | store | overflow | full | energy => exact hm

/-- Settles O48, by the bound on what DECODE returns (R172). -/
theorem everyHardwareStepKeepsTheRegistersInRange :
    Obligations.EveryHardwareStepKeepsTheRegistersInRange := by
  intro s t hs hx h
  obtain ⟨inbox, hin, hidle | ⟨i, hi, hrun⟩⟩ := step_external hs
  · cases (hidle s.block).symm.trans h
    exact ⟨hx, hin⟩
  · have hexec := (hrun s.block).symm.trans h
    refine ⟨blockStep_event_keeps_range hi (exec_blockStep hexec) hx, ?_⟩
    unfold External
    rwa [exec_event_inbox hi hexec]

/-- Settles O10, from the reset values and the invariants of R40 at them. -/
theorem resetStateIsAtItsValuesAndInvariant : Obligations.ResetStateIsAtItsValuesAndInvariant :=
  ⟨rfl, rfl, rfl, rfl, rfl, rfl, lineInv_reset, regsInRange_zero, List.forall_mem_nil _, rfl, rfl⟩

/-! ### Who writes what (R35) -/

section Writers

variable {i : Instr} {m m' : Block}

theorem registers_writer (h : BlockStep i m m') (hne : m'.x ≠ m.x) :
    i = .reset ∨ EndsLine i ∨ i = .tokenize ∨ ∃ k v, i = .writeField k v := by
  cases h with
  | reset hi => exact .inl hi
  | complete hi => exact .inr (.inl hi)
  | tokenize hi => exact .inr (.inr (.inl hi))
  | writeField k v hi => exact .inr (.inr (.inr ⟨k, v, hi⟩))
  | _ => exact absurd rfl hne

theorem line_writer (h : BlockStep i m m')
    (hne : m'.buf ≠ m.buf ∨ m'.len ≠ m.len ∨ m'.ovf ≠ m.ovf) :
    i = .reset ∨ EndsLine i ∨ ∃ b, Appends b i := by
  cases h with
  | reset hi => exact .inl hi
  | discard hi | complete hi => exact .inr (.inl hi)
  | store b hi | overflow b hi => exact .inr (.inr ⟨b, hi⟩)
  | _ => simp at hne

theorem tick_writer (h : BlockStep i m m') (hne : m'.tick ≠ m.tick) : i = .reset ∨ i = .tick := by
  cases h with
  | reset hi => exact .inl hi
  | tick hi => exact .inr hi
  | _ => exact absurd rfl hne

theorem base_writer (h : BlockStep i m m') (hne : m'.base ≠ m.base) :
    i = .reset ∨ ∃ ok, i = .poll ok ∨ i = .schedFull ok := by
  cases h with
  | reset hi => exact .inl hi
  | full ok hi => exact .inr ⟨ok, hi⟩
  | _ => exact absurd rfl hne

theorem energySent_writer (h : BlockStep i m m') (hne : m'.energySent ≠ m.energySent) :
    i = .reset ∨ ∃ ok, i = .poll ok ∨ i = .schedFull ok ∨ i = .schedEnergy ok := by
  cases h with
  | reset hi => exact .inl hi
  | full ok hi => exact .inr ⟨ok, by tauto⟩
  | energy ok hi => exact .inr ⟨ok, by tauto⟩
  | _ => exact absurd rfl hne

end Writers

/-- Settles O45, one clause for each piece of state. -/
theorem eachStateHasItsWriters : Obligations.EachStateHasItsWriters := by
  intro i s t h
  have hstep := exec_blockStep h
  refine ⟨fun hne => ?_, fun hne => ?_, tick_writer hstep, fun hne => ?_, fun hne => ?_⟩
  · obtain hi | (⟨b, hi, -⟩ | hi | hi | hi) | hi | ⟨k, v, hi⟩ := registers_writer hstep hne <;>
      simp [hi]
  · obtain hi | (⟨b, hi, -⟩ | hi | hi | hi) | ⟨b, ⟨hi, -⟩ | hi | hi⟩ := line_writer hstep hne <;>
      simp [hi]
  · obtain hi | ⟨ok, hi | hi⟩ := base_writer hstep hne <;> simp [hi]
  · obtain hi | ⟨ok, hi | hi | hi⟩ := energySent_writer hstep hne <;> simp [hi]

/-! ### The bytes above `len` (R28) -/

/-- The block with other bytes in its buffer. -/
def Block.withBuf (m : Block) (buf : Memory) : Block := { m with buf := buf }

@[simp] theorem withBuf_tick (m : Block) (buf : Memory) : (m.withBuf buf).tick = m.tick := rfl

/-- `buf` may stand for the block's own buffer: both are canonical and hold the same line, so they
differ in bytes at and above `len` alone. -/
structure SameLine (m : Block) (buf : Memory) : Prop where
  wf_left : m.buf.wf = true
  wf_right : buf.wf = true
  line : lineBytes (m.withBuf buf) = lineBytes m

theorem SameLine.congr {m m' : Block} {buf : Memory} (h : SameLine m buf) (hbuf : m'.buf = m.buf)
    (hlen : m'.len = m.len) : SameLine m' buf where
  wf_left := hbuf ▸ h.wf_left
  wf_right := h.wf_right
  line := by
    rw [lineBytes_congr hbuf hlen, ← h.line]
    exact lineBytes_congr rfl hlen

/-- An empty line is the same in every buffer. -/
theorem SameLine.of_empty {m m' : Block} {buf : Memory} (h : SameLine m buf)
    (hbuf : m'.buf = m.buf) (hlen : m'.len = 0) : SameLine m' buf where
  wf_left := hbuf ▸ h.wf_left
  wf_right := h.wf_right
  line := by simp [lineBytes, memRead, Block.withBuf, hlen]

/-- The operation cannot see the bytes above `len`: with another buffer that holds the same line it
leaves the same block but for such bytes, and hands over the same. -/
def HidesAboveLen (op : Block → Block × List Output) : Prop :=
  ∀ m buf, SameLine m buf → ∃ buf',
    op (m.withBuf buf) = ((op m).1.withBuf buf', (op m).2) ∧ SameLine (op m).1 buf'

theorem hidesAboveLen_tick : HidesAboveLen fun m => (tickBlock m, []) :=
  fun _ buf h => ⟨buf, rfl, h.congr rfl rfl⟩

/-- POLL neither reads nor writes the line (R260). -/
theorem pollBlock_withBuf (P : Params) (ok : Bool) (m : Block) (buf : Memory) :
    pollBlock P ok (m.withBuf buf) =
      ((pollBlock P ok m).1.withBuf buf, (pollBlock P ok m).2) := by
  have hfull : fullDue P m.tick (m.withBuf buf) = fullDue P m.tick m := rfl
  have henergy : energyDue P m.tick (m.withBuf buf) = energyDue P m.tick m := rfl
  simp only [pollBlock, withBuf_tick, hfull, henergy]
  split_ifs <;> rfl

theorem pollBlock_line (P : Params) (ok : Bool) (m : Block) :
    (pollBlock P ok m).1.buf = m.buf ∧ (pollBlock P ok m).1.len = m.len := by
  obtain ⟨-, he⟩ | ⟨-, -, -, he⟩ | ⟨-, -, he⟩ := pollBlock_cases P ok m <;> rw [he] <;>
    exact ⟨rfl, rfl⟩

theorem hidesAboveLen_pollBlock (P : Params) (ok : Bool) : HidesAboveLen (pollBlock P ok) :=
  fun m buf h =>
    have ⟨hbuf, hlen⟩ := pollBlock_line P ok m
    ⟨buf, pollBlock_withBuf P ok m buf, h.congr hbuf hlen⟩

theorem completeLine_overflowed (P : Params) {m : Block} (h : m.ovf = true) :
    completeLine P m = (setOvf false (clearLine m), []) := by
  obtain ⟨-, he⟩ | ⟨hovf, -⟩ := completeLine_cases P m
  · exact he
  · rw [h] at hovf; cases hovf

theorem completeLine_tokenized (P : Params) {m : Block} (h : m.ovf = false) :
    completeLine P m =
      (clearLine { m with x := (tokenizeLine P (lineBytes m) m.x).1 },
        reportResult (tokenizeLine P (lineBytes m) m.x).2) := by
  obtain ⟨hovf, -⟩ | ⟨-, he⟩ := completeLine_cases P m
  · rw [h] at hovf; cases hovf
  · exact he

/-- LINE_COMPLETE reads the line alone, and the line it leaves is empty. -/
theorem hidesAboveLen_completeLine (P : Params) : HidesAboveLen (completeLine P) := by
  intro m buf h
  refine ⟨buf, ?_⟩
  cases hovf : m.ovf with
  | true =>
    have hovf' : (m.withBuf buf).ovf = true := hovf
    rw [completeLine_overflowed P hovf, completeLine_overflowed P hovf']
    exact ⟨rfl, h.of_empty rfl rfl⟩
  | false =>
    have hovf' : (m.withBuf buf).ovf = false := hovf
    rw [completeLine_tokenized P hovf, completeLine_tokenized P hovf', h.line]
    exact ⟨rfl, h.of_empty rfl rfl⟩

/-- A byte stored at `len` in either buffer leaves the same line in both. -/
theorem SameLine.of_storeByte {m : Block} {buf : Memory} (h : SameLine m buf) (b : Byte)
    (hlen : m.len.val < Config.lineCap) :
    SameLine (storeByte b m hlen) (buf.write m.len.val b) where
  wf_left := write_keeps_wf h.wf_left hlen b
  wf_right := write_keeps_wf h.wf_right hlen b
  line := calc
    lineBytes ((storeByte b m hlen).withBuf (buf.write m.len.val b))
      = lineBytes (m.withBuf buf) ++ [b] :=
        lineBytes_storeByte (m := m.withBuf buf) h.wf_right b hlen
    _ = lineBytes m ++ [b] := by rw [h.line]
    _ = lineBytes (storeByte b m hlen) := (lineBytes_storeByte h.wf_left b hlen).symm

/-- APPEND reads no byte of the buffer, and writes at `len`. -/
theorem hidesAboveLen_appendByte (b : Byte) : HidesAboveLen (appendByte b) := by
  intro m buf h
  obtain ⟨hovf, he⟩ | ⟨hovf, hlen, he⟩ | ⟨hovf, hlen, he⟩ := appendByte_cases b m
  · refine ⟨buf, ?_⟩
    rw [he, appendByte_drop (m := m.withBuf buf) hovf]
    exact ⟨rfl, h⟩
  · refine ⟨buf.write m.len.val b, ?_⟩
    rw [he, appendByte_store (m := m.withBuf buf) hovf hlen]
    exact ⟨rfl, h.of_storeByte b hlen⟩
  · refine ⟨buf, ?_⟩
    rw [he, appendByte_overflow (m := m.withBuf buf) hovf hlen]
    exact ⟨rfl, h.congr rfl rfl⟩

theorem hidesAboveLen_feedByte (P : Params) (b : Byte) : HidesAboveLen (feedByte P b) := by
  cases hb : isTerminator b with
  | true => rw [funext (feedByte_terminator P hb)]; exact hidesAboveLen_completeLine P
  | false => rw [funext (feedByte_data P hb)]; exact hidesAboveLen_appendByte b

/-- The state with other bytes in its buffer. -/
def State.withBuf (s : State) (buf : Memory) : State := { s with block := s.block.withBuf buf }

/-- Such an operation, committed in a state with another buffer. -/
theorem next_commit_withBuf {op : Block → Block × List Output} (hop : HidesAboveLen op)
    {s : State} {buf : Memory} (h : SameLine s.block buf) :
    ∃ buf', (.next ((s.withBuf buf).commit (op (s.block.withBuf buf))) :
          Host.Outcome State Fault Refusal) = .next ((s.commit (op s.block)).withBuf buf') ∧
      SameLine (op s.block).1 buf' := by
  obtain ⟨buf', he, hline⟩ := hop s.block buf h
  exact ⟨buf', by rw [he]; rfl, hline⟩

/-- No event sees the bytes above `len`. -/
theorem exec_event_withBuf {i : Instr} {s t : State} {buf : Memory} (hi : isEvent i = true)
    (hline : SameLine s.block buf) (h : exec i s = .next t) :
    ∃ buf', exec i (s.withBuf buf) = .next (t.withBuf buf') ∧ SameLine t.block buf' := by
  cases i with
  | reset => cases h; exact ⟨[], rfl, rfl, rfl, rfl⟩
  | tick => cases h; exact next_commit_withBuf hidesAboveLen_tick hline
  | feed b => cases h; exact next_commit_withBuf (hidesAboveLen_feedByte Config.hw b) hline
  | poll ok => cases h; exact next_commit_withBuf (hidesAboveLen_pollBlock Config.hw ok) hline
  | _ => cases hi

/-- No step of the hardware's inputs sees the bytes above `len`. -/
theorem step_external_withBuf {s t : State} {buf : Memory} (hs : External s)
    (hline : SameLine s.block buf) (h : step s = .next t) :
    ∃ buf', step (s.withBuf buf) = .next (t.withBuf buf') ∧ SameLine t.block buf' := by
  obtain ⟨inbox, -, hidle | ⟨i, hi, hrun⟩⟩ := step_external hs
  · cases (hidle s.block).symm.trans h
    exact ⟨buf, hidle (s.block.withBuf buf), hline⟩
  · have hexec := (hrun s.block).symm.trans h
    obtain ⟨buf', he, hline'⟩ := exec_event_withBuf (s := { s with inbox := inbox }) hi hline hexec
    exact ⟨buf', (hrun (s.block.withBuf buf)).trans he, hline'⟩

/-- Settles O49: each event's operation reads the buffer below `len` alone. -/
theorem bytesAboveLenAreNotObservable : Obligations.BytesAboveLenAreNotObservable := by
  intro s t buf s' hs hwf hwf' hline h
  obtain ⟨buf', hstep, hwft, hwft', hlinet⟩ := step_external_withBuf hs ⟨hwf, hwf', hline⟩ h
  exact ⟨t.withBuf buf', hstep, rfl, hlinet, hwft, hwft'⟩

end Sys2Proof.Machine

/-! PROOF. The transmit port: the lanes of `tx_data`, and a register from its four bytes (R53, R55). -/

namespace Sys2Proof.Machine

/-! ### A register and its four bytes (R53) -/

/-- The value of two words side by side: the upper one weighs 2 to the width of the lower. -/
theorem toNat_append_eq_add {n w : Nat} (hi : BitVec n) (lo : BitVec w) :
    (hi ++ lo).toNat = 2 ^ w * hi.toNat + lo.toNat := by
  rw [BitVec.toNat_append, ← Nat.shiftLeft_add_eq_or_of_lt lo.isLt, Nat.shiftLeft_eq, Nat.mul_comm]

theorem toNat_ofLe32 (b0 b1 b2 b3 : Byte) :
    (ofLe32 b0 b1 b2 b3).toNat =
      b0.toNat + 256 * b1.toNat + 65536 * b2.toNat + 16777216 * b3.toNat := by
  simp only [ofLe32, toNat_append_eq_add]
  omega

/-- The bytes `le32` takes a word apart into are the ones `ofLe32` makes it of. -/
theorem le32_ofLe32_bytes (v : Word32) :
    ∃ b0 b1 b2 b3, le32 v = [b0, b1, b2, b3] ∧ ofLe32 b0 b1 b2 b3 = v := by
  refine ⟨_, _, _, _, rfl, ?_⟩
  rw [ofLe32, BitVec.extractLsb'_append_extractLsb'_eq_extractLsb' (rfl : 24 = 16 + 8),
    BitVec.extractLsb'_append_extractLsb'_eq_extractLsb' (rfl : 16 = 8 + 8),
    BitVec.extractLsb'_append_extractLsb'_eq_extractLsb' (rfl : 8 = 0 + 8)]
  exact BitVec.extractLsb'_eq_self

/-! ### The lanes of `tx_data` (R55) -/

/-- Above the lowest byte lies the rest of the word. -/
theorem extractLsb'_append_byte {n : Nat} (hi : BitVec n) (b : Byte) (start : Nat) :
    (hi ++ b).extractLsb' (start + 8) 8 = hi.extractLsb' start 8 := by
  rw [BitVec.extractLsb'_append_eq_of_le (Nat.le_add_left 8 start), Nat.add_sub_cancel]

/-- The lowest byte of a word. -/
theorem extractLsb'_zero_append_byte {n : Nat} (hi : BitVec n) (b : Byte) :
    (hi ++ b).extractLsb' 0 8 = b := by
  rw [BitVec.extractLsb'_append_eq_of_add_le (Nat.le_refl 8), BitVec.extractLsb'_eq_self]

/-- Lane `i` carries payload byte `i`. -/
theorem txData_lane (f : Frame) {i : Nat} (hi : i < 8) :
    (txData f).extractLsb' (8 * i) 8 = byteAt f.payload i := by
  unfold txData
  interval_cases i <;>
    simp only [Nat.reduceMul, extractLsb'_append_byte, extractLsb'_zero_append_byte,
      BitVec.extractLsb'_eq_self]

/-- A payload shorter than the port leaves the lanes it does not reach at zero. -/
theorem byteAt_of_length_le {bs : List Byte} {i : Nat} (h : bs.length ≤ i) : byteAt bs i = 0 :=
  List.getD_eq_default bs 0 h

/-- The two 32-bit halves of the port, each made of its four payload bytes. -/
theorem txData_eq_halves (f : Frame) :
    txData f =
      ofLe32 (byteAt f.payload 4) (byteAt f.payload 5) (byteAt f.payload 6) (byteAt f.payload 7) ++
        ofLe32 (byteAt f.payload 0) (byteAt f.payload 1) (byteAt f.payload 2)
          (byteAt f.payload 3) := by
  apply BitVec.eq_of_toNat_eq
  simp only [txData, ofLe32, toNat_append_eq_add]
  omega

/-- Two words serialised one after the other fill both halves, the first one the low half. -/
theorem txData_of_two_words {f : Frame} {lo hi : Word32} (h : f.payload = le32 lo ++ le32 hi) :
    txData f = hi ++ lo := by
  obtain ⟨l0, l1, l2, l3, hlo, rfl⟩ := le32_ofLe32_bytes lo
  obtain ⟨h0, h1, h2, h3, hhi, rfl⟩ := le32_ofLe32_bytes hi
  rw [txData_eq_halves, h, hlo, hhi]
  rfl

/-- One word serialised fills the low half and leaves the high half zero. -/
theorem txData_of_one_word {f : Frame} {lo : Word32} (h : f.payload = le32 lo) :
    txData f = (0 : BitVec 32) ++ lo := by
  obtain ⟨l0, l1, l2, l3, hlo, rfl⟩ := le32_ofLe32_bytes lo
  have hzero : ofLe32 0 0 0 0 = 0 := by decide
  rw [txData_eq_halves, h, hlo, ← hzero]
  rfl

/-- Frame A carries voltage, then current (R89). -/
theorem fullFrame_payload (m : Block) :
    (fullFrame Config.hw m).payload = le32 m.x.voltage ++ le32 m.x.current := rfl

/-- Frame B carries charge alone (R89). -/
theorem energyFrame_payload (m : Block) : (energyFrame Config.hw m).payload = le32 m.x.charge := rfl

/-- Settles O42, by the two halves of the port, its lanes, and a register's value in base 256. -/
theorem frameBytesCarryTheRegisters : Obligations.FrameBytesCarryTheRegisters := by
  refine ⟨fun m => ⟨txData_of_two_words (fullFrame_payload m),
    txData_of_one_word (energyFrame_payload m)⟩, fun f i hi => ?_, fun v => ?_⟩
  · rw [txData_lane f hi]
    split
    · rfl
    next hlen => exact byteAt_of_length_le (Nat.le_of_not_lt hlen)
  · obtain ⟨b0, b1, b2, b3, hbytes, rfl⟩ := le32_ofLe32_bytes v
    exact ⟨b0, b1, b2, b3, hbytes, toNat_ofLe32 b0 b1 b2 b3⟩

end Sys2Proof.Machine

/-! PROOF. The decoder and the encoder: each operand form read back from its bytes, every format's
instructions read back from their words, and every byte's rows (R80 to R92). -/

namespace Sys2Proof.Machine

/-! ### Operand forms read back -/

theorem bitOfByte_byteOfBit (b : Bool) : bitOfByte (byteOfBit b) = some b := by
  cases b <;> rfl

/-- A string no longer than a token has its length in one byte. -/
theorem toNat_lengthByte {s : List Byte} (h : s.length ≤ Config.maxToken) :
    (BitVec.ofNat 8 s.length).toNat = s.length := by
  rw [maxToken_eq] at h
  rw [BitVec.toNat_ofNat]
  omega

theorem byteAt_append_cons (before after : List Byte) (b : Byte) :
    byteAt (before ++ b :: after) before.length = b := by
  simp [byteAt]

/-- The `j`-th byte of a string that stands behind its length byte. -/
theorem byteAt_append_stringBytes (before s : List Byte) (j : Nat) :
    byteAt (before ++ stringBytes s) (before.length + 1 + j) = s.getD j 0 := by
  simp [byteAt, stringBytes, List.getD_eq_getElem?_getD, List.getElem?_append_right, Nat.add_assoc,
    Nat.add_comm 1 j]

/-- A string is read back from its length byte and the bytes after it, whatever stands before
(log 9). -/
theorem stringAt_append_stringBytes (before : List Byte) {s : List Byte}
    (h : s.length ≤ Config.maxToken) : stringAt before.length (before ++ stringBytes s) = s := by
  have hlen : (byteAt (before ++ stringBytes s) before.length).toNat = s.length := by
    rw [stringBytes, byteAt_append_cons, toNat_lengthByte h]
  rw [stringAt, hlen]
  refine List.ext_getElem (by simp) fun j _ hj => ?_
  rw [List.getElem_map, List.getElem_range, byteAt_append_stringBytes,
    List.getD_eq_getElem _ _ hj]

/-! ### BYTE and CHAR words -/

theorem isTerminator_eq_false_iff {b : Byte} :
    isTerminator b = false ↔ b ≠ Config.termLf ∧ b ≠ Config.termCr := by
  simp [isTerminator]

theorem decodeByte_data {b : Byte} (h : isTerminator b = false) : decodeByte b = .feedAppend b := by
  obtain ⟨hlf, hcr⟩ := isTerminator_eq_false_iff.1 h
  rw [decodeByte, if_neg hlf, if_neg hcr]

/-- The BYTE rows: two terminators and the data bytes (R81). -/
theorem decodeByte_cases (b : Byte) :
    (b = Config.termLf ∧ decodeByte b = .feedLf) ∨ (b = Config.termCr ∧ decodeByte b = .feedCr) ∨
      (isTerminator b = false ∧ decodeByte b = .feedAppend b) := by
  by_cases hlf : b = Config.termLf
  · subst hlf; exact .inl ⟨rfl, rfl⟩
  by_cases hcr : b = Config.termCr
  · subst hcr; exact .inr (.inl ⟨rfl, rfl⟩)
  have hb := isTerminator_eq_false_iff.2 ⟨hlf, hcr⟩
  exact .inr (.inr ⟨hb, decodeByte_data hb⟩)

/-- The mask of CH.DIGIT_0_7 leaves the three bits of the digit (R84). -/
theorem eq_append_of_digit07 {c : Byte} (h : c &&& 0xF8 = 0x30) :
    c = 0b00110#5 ++ c.extractLsb' 0 3 := by
  revert c; decide

/-- The mask of CH.DIGIT_8_9 leaves the one bit of the digit (R84). -/
theorem eq_append_of_digit89 {c : Byte} (h : c &&& 0xFE = 0x38) :
    c = 0b0011100#7 ++ c.extractLsb' 0 1 := by
  revert c; decide

/-- The two masks together take the ten digits and nothing else (R84). -/
theorem isDigit_eq_masks (c : Byte) :
    isDigit c = (c &&& 0xF8 = 0x30 || c &&& 0xFE = 0x38 : Bool) := by
  revert c; decide

/-- The CHAR rows: the separator, the point, the two signs, a digit by either mask, and every other
byte; with the value of the digit (R83, R84, R85). -/
theorem decodeChar_cases (c : Byte) :
    (c = Config.sepTab ∧ decodeChar c = .chTab) ∨ (c = Config.chPoint ∧ decodeChar c = .chPoint) ∨
    (c = Config.chPlus ∧ decodeChar c = .chPlus) ∨ (c = Config.chMinus ∧ decodeChar c = .chMinus) ∨
    (∃ d : BitVec 3, c = 0b00110#5 ++ d ∧ decodeChar c = .chDigit07 d) ∨
    (∃ d : BitVec 1, c = 0b0011100#7 ++ d ∧ decodeChar c = .chDigit89 d) ∨
    (isOther c = true ∧ decodeChar c = .chOther c) := by
  unfold decodeChar
  by_cases htab : c = Config.sepTab
  · simp [htab]
  by_cases hpoint : c = Config.chPoint
  · simp [hpoint]
  by_cases hplus : c = Config.chPlus
  · simp [hplus]
  by_cases hminus : c = Config.chMinus
  · simp [hminus]
  rw [if_neg htab, if_neg hpoint, if_neg hplus, if_neg hminus]
  by_cases h07 : c &&& 0xF8 = 0x30
  · rw [if_pos h07]
    exact .inr (.inr (.inr (.inr (.inl ⟨_, eq_append_of_digit07 h07, rfl⟩))))
  by_cases h89 : c &&& 0xFE = 0x38
  · rw [if_neg h07, if_pos h89]
    exact .inr (.inr (.inr (.inr (.inr (.inl ⟨_, eq_append_of_digit89 h89, rfl⟩)))))
  rw [if_neg h07, if_neg h89]
  refine .inr (.inr (.inr (.inr (.inr (.inr ⟨?_, rfl⟩)))))
  simp only [isOther, isTab, isPoint, isSign, isDigit_eq_masks, beq_false_of_ne htab,
    beq_false_of_ne hpoint, beq_false_of_ne hplus, beq_false_of_ne hminus, decide_eq_false h07,
    decide_eq_false h89]
  rfl

theorem decodeChar_digit07 (d : BitVec 3) : decodeChar (0b00110#5 ++ d) = .chDigit07 d := by
  revert d; decide

theorem decodeChar_digit89 (d : BitVec 1) : decodeChar (0b0011100#7 ++ d) = .chDigit89 d := by
  revert d; decide

/-- The default row takes what no other CHAR row takes (R84, R92). -/
theorem decodeChar_other {c : Byte} (h : isOther c = true) : decodeChar c = .chOther c := by
  obtain ⟨rfl, -⟩ | ⟨rfl, -⟩ | ⟨rfl, -⟩ | ⟨rfl, -⟩ | ⟨d, rfl, -⟩ | ⟨d, rfl, -⟩ | ⟨-, hc⟩ :=
    decodeChar_cases c
  · cases h
  · cases h
  · cases h
  · cases h
  · revert d; decide
  · revert d; decide
  · exact hc

/-! ### Decode of encode -/

/-- A word all of whose bytes its row uses decodes to the row's instruction. -/
theorem decode_of_decodeFormat {f : Format} {bs : List Byte} {i : Instr}
    (h : decodeFormat f bs = .ok (i, bs.length)) (hw : wellFormed i = true) :
    decode f bs = .ok i := by
  simp [decode, h, tailIsZero, hw]

/-- The vector has four bits, one for each strobe (R90). -/
theorem vector_bits (c : Cycle) :
    c.vector < 16 ∧ c.vector.getLsbD 3 = c.rst ∧ c.vector.getLsbD 2 = c.tickInc ∧
      c.vector.getLsbD 1 = c.rxValid ∧ c.vector.getLsbD 0 = c.poll := by
  obtain ⟨rst, tickInc, rxValid, _, poll, _⟩ := c
  simp only [Cycle.vector]
  revert rst tickInc rxValid poll
  decide

/-- The vector, the data byte and `tx_ok` give the cycle back (R90, log 9). -/
theorem ofBytes_toBytes (c : Cycle) : Cycle.ofBytes c.toBytes = some c := by
  obtain ⟨hlt, hrst, htick, hrx, hpoll⟩ := vector_bits c
  simp only [Cycle.ofBytes, Cycle.toBytes, byteAt, List.getD_cons_zero, List.getD_cons_succ,
    if_pos hlt, bitOfByte_byteOfBit, Option.map_some, hrst, htick, hrx, hpoll]

/-- A cycle's word is read as the cycle's first event (R90, R258). -/
theorem decodeEvent_toBytes {c : Cycle} {i : Instr} (h : c.firstEvent = some i) :
    decodeEvent c.toBytes = .ok (i, 3) := by
  rw [decodeEvent_of_cycle (ofBytes_toBytes c), h]

/-! An INTERNAL word that ends in a byte string: the string, and how many bytes the word uses; after the
ordinal (DECODE, NORM3), and after one operand more (SCAN) (R92, log 9). -/

theorem stringAt_one (ordinal : Byte) {s : List Byte} (h : s.length ≤ Config.maxToken) :
    stringAt 1 (ordinal :: stringBytes s) = s := stringAt_append_stringBytes [ordinal] h

theorem stringAt_two (ordinal operand : Byte) {s : List Byte} (h : s.length ≤ Config.maxToken) :
    stringAt 2 (ordinal :: operand :: stringBytes s) = s :=
  stringAt_append_stringBytes [ordinal, operand] h

theorem bytesUsed_one (ordinal : Byte) {s : List Byte} (h : s.length ≤ Config.maxToken) :
    2 + (byteAt (ordinal :: stringBytes s) 1).toNat = (ordinal :: stringBytes s).length := by
  change 2 + (BitVec.ofNat 8 s.length).toNat = s.length + 1 + 1
  rw [toNat_lengthByte h, Nat.add_comm]

theorem bytesUsed_two (ordinal operand : Byte) {s : List Byte} (h : s.length ≤ Config.maxToken) :
    3 + (byteAt (ordinal :: operand :: stringBytes s) 2).toNat =
      (ordinal :: operand :: stringBytes s).length := by
  change 3 + (BitVec.ofNat 8 s.length).toNat = s.length + 1 + 1 + 1
  rw [toNat_lengthByte h, Nat.add_comm]

theorem decodeInternal_decode {t : List Byte} (h : t.length ≤ Config.maxToken) :
    decodeInternal (3 :: stringBytes t) = .ok (.decode t, (3 :: stringBytes t).length) := calc
  decodeInternal (3 :: stringBytes t)
    = .ok (.decode (stringAt 1 (3 :: stringBytes t)),
        2 + (byteAt (3 :: stringBytes t) 1).toNat) := rfl
  _ = .ok (.decode t, (3 :: stringBytes t).length) := by rw [stringAt_one 3 h, bytesUsed_one 3 h]

theorem decodeInternal_norm3 {fp : List Byte} (h : fp.length ≤ Config.maxToken) :
    decodeInternal (4 :: stringBytes fp) = .ok (.norm3 fp, (4 :: stringBytes fp).length) := calc
  decodeInternal (4 :: stringBytes fp)
    = .ok (.norm3 (stringAt 1 (4 :: stringBytes fp)),
        2 + (byteAt (4 :: stringBytes fp) 1).toNat) := rfl
  _ = .ok (.norm3 fp, (4 :: stringBytes fp).length) := by rw [stringAt_one 4 h, bytesUsed_one 4 h]

theorem decodeInternal_scan (sa : Bool) {s : List Byte} (h : s.length ≤ Config.maxToken) :
    decodeInternal (5 :: byteOfBit sa :: stringBytes s) =
      .ok (.scan sa s, (5 :: byteOfBit sa :: stringBytes s).length) := calc
  decodeInternal (5 :: byteOfBit sa :: stringBytes s)
    = .ok (.scan sa (stringAt 2 (5 :: byteOfBit sa :: stringBytes s)),
        3 + (byteAt (5 :: byteOfBit sa :: stringBytes s) 2).toNat) := by cases sa <;> rfl
  _ = .ok (.scan sa s, (5 :: byteOfBit sa :: stringBytes s).length) := by
    rw [stringAt_two 5 _ h, bytesUsed_two 5 _ h]

/-- The four bytes of the value are read back into it (R53). -/
theorem decodeInternal_writeField (k : Field) (v : FieldWord) :
    decodeInternal (6 :: fieldByte k :: le32 v) =
      .ok (.writeField k v, (6 :: fieldByte k :: le32 v).length) := by
  obtain ⟨b0, b1, b2, b3, hbytes, rfl⟩ := le32_ofLe32_bytes v
  rw [hbytes]
  cases k <;> rfl

/-- The decoder of an instruction's format reads it from its word, and uses all the word's bytes. -/
theorem decodeFormat_encode {i : Instr} (hw : wellFormed i = true) :
    decodeFormat (encode i).1 (encode i).2 = .ok (i, (encode i).2.length) := by
  cases i with
  | feedAppend b =>
    have hb : isTerminator b = false := by simpa [wellFormed] using hw
    exact congrArg (fun j => Except.ok (j, 1)) (decodeByte_data hb)
  | chDigit07 d => exact congrArg (fun j => Except.ok (j, 1)) (decodeChar_digit07 d)
  | chDigit89 d => exact congrArg (fun j => Except.ok (j, 1)) (decodeChar_digit89 d)
  | chOther c => exact congrArg (fun j => Except.ok (j, 1)) (decodeChar_other hw)
  | decode t =>
    have hlen : t.length ≤ Config.maxToken ∧ t.all isTokenByte = true := by
      simpa [wellFormed] using hw
    exact decodeInternal_decode hlen.1
  | norm3 fp => exact decodeInternal_norm3 (of_decide_eq_true hw)
  | scan sa s => exact decodeInternal_scan sa (of_decide_eq_true hw)
  | writeField k v => exact decodeInternal_writeField k v
  | feed b =>
    exact decodeEvent_toBytes (c := ⟨false, false, true, b, false, false⟩) rfl
  | poll ok | schedFull ok | schedEnergy ok => cases ok <;> rfl
  | diagNotDecimal k | diagTokenTooLong k => cases k <;> rfl
  | diagTransmitFailure f | diagTransmitOk f => cases f <;> rfl
  | diagUnused low => revert low; decide
  | _ => rfl

/-- Settles O1: the word's own decoder reads the instruction and leaves no byte over. -/
theorem decodeOfEncodeIsTheInstruction : Obligations.DecodeOfEncodeIsTheInstruction :=
  fun _ hw => decode_of_decodeFormat (decodeFormat_encode hw) hw

/-! ### Every byte is a word -/

theorem decodeByte_wellFormed (b : Byte) : wellFormed (decodeByte b) = true := by
  obtain ⟨-, h⟩ | ⟨-, h⟩ | ⟨hb, h⟩ := decodeByte_cases b
  · rw [h]; rfl
  · rw [h]; rfl
  · simp [h, wellFormed, hb]

theorem encode_decodeByte (b : Byte) : encode (decodeByte b) = (.byte, [b]) := by
  obtain ⟨rfl, h⟩ | ⟨rfl, h⟩ | ⟨-, h⟩ := decodeByte_cases b <;> rw [h] <;> rfl

theorem decodeChar_wellFormed (c : Byte) : wellFormed (decodeChar c) = true := by
  obtain ⟨-, h⟩ | ⟨-, h⟩ | ⟨-, h⟩ | ⟨-, h⟩ | ⟨_, -, h⟩ | ⟨_, -, h⟩ | ⟨hc, h⟩ := decodeChar_cases c
  case inr.inr.inr.inr.inr.inr => rw [h]; exact hc
  all_goals rw [h]; rfl

theorem encode_decodeChar (c : Byte) : encode (decodeChar c) = (.char, [c]) := by
  obtain ⟨rfl, h⟩ | ⟨rfl, h⟩ | ⟨rfl, h⟩ | ⟨rfl, h⟩ | ⟨_, rfl, h⟩ | ⟨_, rfl, h⟩ | ⟨-, h⟩ :=
    decodeChar_cases c <;> rw [h] <;> rfl

/-- Settles O2: both formats' default rows take what their other rows leave. -/
theorem everyByteIsOneByteRowAndOneCharRow : Obligations.EveryByteIsOneByteRowAndOneCharRow :=
  fun b =>
    ⟨⟨decodeByte b, decode_of_decodeFormat rfl (decodeByte_wellFormed b), encode_decodeByte b⟩,
      ⟨decodeChar b, decode_of_decodeFormat rfl (decodeChar_wellFormed b), encode_decodeChar b⟩⟩

/-- Settles O3, by reading each of the words. -/
theorem sampleWordsDecodeAsTheTablesSay : Obligations.SampleWordsDecodeAsTheTablesSay :=
  ⟨rfl, rfl, rfl, rfl, rfl, rfl, rfl⟩

end Sys2Proof.Machine

/-! PROOF. Steps: what the inbox's next entry gives a step, and that every step answers a next state
(R67, R90, R225, R258). -/

namespace Sys2Proof.Machine

/-! ### What the next entry gives -/

theorem fetch_empty {s : State} (h : s.inbox = []) : fetch s = .idle s := by
  simp only [fetch, h]

theorem fetch_cycle {s : State} {c : Cycle} {rest : List Entry}
    (h : s.inbox = .cycle c :: rest) : fetch s = fetchCycle c rest s := by
  simp only [fetch, h]

theorem fetch_word {s : State} {f : Format} {bs : List Byte} {rest : List Entry}
    (h : s.inbox = .word f bs :: rest) : fetch s = fetchWord f bs rest s := by
  simp only [fetch, h]

theorem fetchCycle_idle {c : Cycle} (h : c.firstEvent = none) (rest : List Entry) (s : State) :
    fetchCycle c rest s = .idle { s with inbox := rest } := by
  simp only [fetchCycle, h]

theorem fetchCycle_run {c : Cycle} {i : Instr} (h : c.firstEvent = some i) (rest : List Entry)
    (s : State) :
    fetchCycle c rest s = .run i { s with inbox := c.remainder.map Entry.cycle ++ rest } := by
  simp only [fetchCycle, h]

theorem fetchWord_error {f : Format} {bs : List Byte} {why : Reject} (h : decode f bs = .error why)
    (rest : List Entry) (s : State) :
    fetchWord f bs rest s = .idle { s with inbox := rest } := by
  simp only [fetchWord, h]

theorem fetchWord_ok {f : Format} {bs : List Byte} {i : Instr} (h : decode f bs = .ok i)
    (rest : List Entry) (s : State) :
    fetchWord f bs rest s =
      .run i { s with inbox := (eventsAfter f bs).map Entry.cycle ++ rest } := by
  simp only [fetchWord, h]

/-- A cycle has no first event exactly when its vector is 0000 (R90). -/
theorem firstEvent_eq_none_iff {c : Cycle} : c.firstEvent = none ↔
    c.rst = false ∧ c.tickInc = false ∧ c.rxValid = false ∧ c.poll = false := by
  unfold Cycle.firstEvent
  split_ifs <;> simp_all

/-! ### Single steps -/

/-- Settles O4: the word is fetched with the other events of its vector left first in the inbox, and only
an EVENT word has any. -/
theorem stepRunsTheDecodedWord : Obligations.StepRunsTheDecodedWord := by
  intro s f bs rest i hin hdec
  have hstep : step s = exec i { s with inbox := (eventsAfter f bs).map Entry.cycle ++ rest } :=
    step_of_run ((fetch_word hin).trans (fetchWord_ok hdec rest s))
  refine ⟨hstep, fun hf => ?_⟩
  rw [hstep, eventsAfter_of_ne hf]
  rfl

/-- Settles O6: neither an empty inbox nor the vector 0000 gives an event. -/
theorem noEventChangesNothing : Obligations.NoEventChangesNothing := by
  refine fun s => ⟨fun hin => step_of_idle (fetch_empty hin), ?_⟩
  intro c rest hin hrst htick hrx hpoll
  have hnone := firstEvent_eq_none_iff.2 ⟨hrst, htick, hrx, hpoll⟩
  exact step_of_idle ((fetch_cycle hin).trans (fetchCycle_idle hnone rest s))

/-- Every row answers a next state, in every state (R226, R229). -/
theorem exec_next (i : Instr) (s : State) : ∃ t, exec i s = .next t := by
  cases i <;> exact ⟨_, rfl⟩

/-- Every state has a next state (R225). -/
theorem step_next (s : State) : ∃ t, step s = .next t := by
  cases hf : fetch s with
  | idle t => exact ⟨t, step_of_idle hf⟩
  | run i t => rw [step_of_run hf]; exact exec_next i t

/-- Settles O50: a word that no row matches is fetched as no event, and every row completes. -/
theorem everyStateHasANextState : Obligations.EveryStateHasANextState :=
  ⟨fun s _ _ rest _ hin hdec =>
    step_of_idle ((fetch_word hin).trans (fetchWord_error hdec rest s)), step_next⟩

/-! ### EVENT words -/

/-- An EVENT word whose cycle has no event is none (R90). -/
theorem decode_event_idle {bs : List Byte} {c : Cycle} (hc : Cycle.ofBytes bs = some c)
    (h : c.firstEvent = none) : decode .event bs = .error .noEvent := by
  simp only [decode, decodeFormat, decodeEvent_of_cycle hc, h]

/-- An EVENT word is read as the first event of its cycle (R90, R258). -/
theorem decode_event_run {bs : List Byte} {c : Cycle} {i : Instr} (hc : Cycle.ofBytes bs = some c)
    (htail : tailIsZero 3 bs = true) (h : c.firstEvent = some i) : decode .event bs = .ok i := by
  simp only [decode, decodeFormat, decodeEvent_of_cycle hc, h, htail,
    wellFormed_of_isEvent (isEvent_of_firstEvent h), if_true]

/-- An EVENT word is fetched as the cycle it stands for. -/
theorem fetchWord_event {bs : List Byte} {c : Cycle} (hc : Cycle.ofBytes bs = some c)
    (htail : tailIsZero 3 bs = true) (rest : List Entry) (s : State) :
    fetchWord .event bs rest s = fetchCycle c rest s := by
  cases h : c.firstEvent with
  | none => rw [fetchCycle_idle h, fetchWord_error (decode_event_idle hc h)]
  | some i =>
    rw [fetchCycle_run h, fetchWord_ok (decode_event_run hc htail h), eventsAfter_event hc]

/-- Settles O51: the word and its cycle are fetched alike. -/
theorem eventWordIsItsCycle : Obligations.EventWordIsItsCycle := by
  intro s bs c rest hc htail
  have hfetch : fetch { s with inbox := .word .event bs :: rest } =
      fetch { s with inbox := .cycle c :: rest } :=
    fetchWord_event hc htail rest { s with inbox := .cycle c :: rest }
  unfold step
  rw [hfetch]

/-! ### FRAME rows -/

/-- Settles O41: each row sends its frame, built from the registers. -/
theorem txRowsHandOverTheirFrame : Obligations.TxRowsHandOverTheirFrame :=
  fun _ => ⟨rfl, rfl⟩

end Sys2Proof.Machine

/-! PROOF. The split of a line: its tabs and its fields, byte by byte (R86, R144). -/

namespace Sys2Proof.Machine

/-! ### Tabs -/

theorem isTab_iff {c : Byte} : isTab c = true ↔ c = Config.sepTab := beq_iff_eq

theorem isTab_eq_false_iff {c : Byte} : isTab c = false ↔ c ≠ Config.sepTab := beq_eq_false_iff_ne

@[simp] theorem tabIndices_nil : tabIndices [] = [] := rfl

/-- The tabs of a line after its first byte stand one index further on in the line. -/
theorem tabIndices_cons (c : Byte) (l : List Byte) :
    tabIndices (c :: l) = (if isTab c then [0] else []) ++ (tabIndices l).map (· + 1) := by
  have hshift : (fun i => isTab (byteAt (c :: l) i)) ∘ Nat.succ = fun i => isTab (byteAt l i) := rfl
  have hzero : byteAt (c :: l) 0 = c := rfl
  rw [tabIndices, List.length_cons, List.range_succ_eq_map, List.filter_cons, List.filter_map, hshift,
    hzero]
  split <;> rfl

theorem length_tabIndices (l : List Byte) : (tabIndices l).length = l.count Config.sepTab := by
  induction l with
  | nil => rfl
  | cons c l ih =>
    rw [tabIndices_cons, List.length_append, List.length_map, ih, List.count_cons, isTab]
    split <;> simp [Nat.add_comm]

/-- A tab at index 0 is the first of the tabs (R142). -/
theorem head?_tabIndices (l : List Byte) :
    (tabIndices l).head? = some 0 ↔ l.head? = some Config.sepTab := by
  cases l with
  | nil => simp
  | cons c l =>
    rw [tabIndices_cons]
    cases hc : isTab c with
    | true => simp [isTab_iff.1 hc]
    | false => simpa using isTab_eq_false_iff.1 hc

/-! ### Fields -/

/-- A stretch that begins after the first byte is a stretch of the rest. -/
theorem slice_succ_succ (c : Byte) (l : List Byte) :
    (fun i j => slice (c :: l) (i + 1) (j + 1)) = slice l := rfl

theorem fieldTokens_nil : fieldTokens [] = [[]] := rfl

/-- A tab at the front closes an empty field. -/
theorem fieldTokens_cons_tab {c : Byte} (hc : isTab c = true) (l : List Byte) :
    fieldTokens (c :: l) = [] :: fieldTokens l := by
  have hstarts : (tabIndices (c :: l)).map (· + 1) =
      (0 :: (tabIndices l).map (· + 1)).map (· + 1) := by simp [tabIndices_cons, hc]
  have hends : tabIndices (c :: l) ++ [(c :: l).length] =
      0 :: (tabIndices l ++ [l.length]).map (· + 1) := by simp [tabIndices_cons, hc]
  rw [fieldTokens, hstarts, hends, List.zipWith_cons_cons, List.zipWith_map, slice_succ_succ]
  rfl

/-- Any other byte at the front begins the first field. -/
theorem fieldTokens_cons_data {c : Byte} (hc : isTab c = false) (l : List Byte) :
    fieldTokens (c :: l) = (fieldTokens l).modifyHead (c :: ·) := by
  have hstarts : (tabIndices (c :: l)).map (· + 1) =
      ((tabIndices l).map (· + 1)).map (· + 1) := by simp [tabIndices_cons, hc]
  have hends : tabIndices (c :: l) ++ [(c :: l).length] =
      (tabIndices l ++ [l.length]).map (· + 1) := by simp [tabIndices_cons, hc]
  obtain ⟨e, es, hends'⟩ : ∃ e es, tabIndices l ++ [l.length] = e :: es :=
    List.exists_cons_of_ne_nil (by simp)
  rw [fieldTokens, fieldTokens, hstarts, hends, hends', List.map_cons, List.zipWith_cons_cons,
    List.zipWith_map, slice_succ_succ]
  rfl

/-- The model's split by indices is the split of the line at its tabs. -/
theorem fieldTokens_eq_splitOn (l : List Byte) : fieldTokens l = l.splitOn Config.sepTab := by
  induction l with
  | nil => rfl
  | cons c l ih =>
    rw [List.splitOn_cons_eq_if_modifyHead, ← ih]
    split
    · next hc => exact fieldTokens_cons_tab hc l
    · next hc => exact fieldTokens_cons_data (Bool.eq_false_iff.2 hc) l

theorem fieldTokens_ne_nil (l : List Byte) : fieldTokens l ≠ [] := by
  rw [fieldTokens_eq_splitOn]
  exact List.splitOn_ne_nil _ _

/-- A line has a first field, which a byte that is no tab lengthens. -/
theorem fieldTokens_cons_data_cases {c : Byte} (hc : isTab c = false) (l : List Byte) :
    ∃ t ts, fieldTokens l = t :: ts ∧ fieldTokens (c :: l) = (c :: t) :: ts := by
  obtain ⟨t, ts, h⟩ := List.exists_cons_of_ne_nil (fieldTokens_ne_nil l)
  exact ⟨t, ts, h, by rw [fieldTokens_cons_data hc, h, List.modifyHead_cons]⟩

theorem sepTab_notMem_field (l : List Byte) : ∀ t ∈ fieldTokens l, Config.sepTab ∉ t := by
  induction l with
  | nil => simp [fieldTokens_nil]
  | cons c l ih =>
    cases hc : isTab c with
    | true => rw [fieldTokens_cons_tab hc]; exact List.forall_mem_cons.2 ⟨List.not_mem_nil, ih⟩
    | false =>
      obtain ⟨t, ts, hl, hcl⟩ := fieldTokens_cons_data_cases hc l
      rw [hl] at ih
      obtain ⟨ht, hts⟩ := List.forall_mem_cons.1 ih
      rw [hcl]
      refine List.forall_mem_cons.2 ⟨?_, hts⟩
      exact List.not_mem_cons_of_ne_of_not_mem (isTab_eq_false_iff.1 hc).symm ht

/-- Each tab closes one field, and the line's end the last. -/
theorem length_fieldTokens (l : List Byte) :
    (fieldTokens l).length = l.count Config.sepTab + 1 := by
  simp [fieldTokens, length_tabIndices]

/-- Each byte of a line is a tab or in one of its fields. -/
theorem sum_length_fieldTokens (l : List Byte) :
    ((fieldTokens l).map List.length).sum + l.count Config.sepTab = l.length := by
  induction l with
  | nil => rfl
  | cons c l ih =>
    rw [List.length_cons, ← ih]
    cases hc : isTab c with
    | true =>
      rw [fieldTokens_cons_tab hc, isTab_iff.1 hc, List.count_cons_self, List.map_cons,
        List.sum_cons, List.length_nil, Nat.zero_add, Nat.add_assoc]
    | false =>
      obtain ⟨t, ts, hl, hcl⟩ := fieldTokens_cons_data_cases hc l
      rw [hcl, hl, List.count_cons_of_ne (isTab_eq_false_iff.1 hc)]
      simp only [List.map_cons, List.length_cons, List.sum_cons]
      omega

/-- Settles O21: the fields are the library's split of the line at its tabs. -/
theorem fieldsAreTheStretchesBetweenTabs : Obligations.FieldsAreTheStretchesBetweenTabs := by
  intro l
  refine ⟨length_fieldTokens l, sepTab_notMem_field l, ?_, sum_length_fieldTokens l, ?_⟩
  · rw [fieldTokens_eq_splitOn]
    exact List.intercalate_splitOn Config.sepTab
  · intro hne hhead
    obtain ⟨c, l, rfl⟩ := List.exists_cons_of_ne_nil hne
    have hc : isTab c = false := isTab_eq_false_iff.2 (by simpa using hhead)
    obtain ⟨t, ts, -, hcl⟩ := fieldTokens_cons_data_cases hc l
    simp [hcl]

end Sys2Proof.Machine

/-! PROOF. DECODE by the parts of its token: the bytes before the first point and those after it (R95,
R160 to R171), and the lines TOKENIZE accepts (R98). -/

namespace Sys2Proof.Machine

/-! ### The parts of a token -/

theorem isPoint_eq_false_iff {c : Byte} : isPoint c = false ↔ c ≠ Config.chPoint :=
  beq_eq_false_iff_ne

/-- How many bytes the optional leading sign takes (R163). -/
def signLength (ip : List Byte) : Nat := if hasSign ip then 1 else 0

/-- A token has no point, or a point first, or bytes before its first point (R162). -/
theorem token_cases (t : List Byte) :
    Config.chPoint ∉ t ∨ (∃ fp, t = Config.chPoint :: fp) ∨
      ∃ ip fp, t = ip ++ Config.chPoint :: fp ∧ Config.chPoint ∉ ip ∧ ip ≠ [] := by
  by_cases hmem : Config.chPoint ∈ t
  · obtain ⟨ip, fp, rfl, hip⟩ := List.eq_append_cons_of_mem hmem
    by_cases hnil : ip = []
    · subst hnil; exact .inr (.inl ⟨fp, rfl⟩)
    · exact .inr (.inr ⟨ip, fp, rfl, hip, hnil⟩)
  · exact .inl hmem

theorem findPoint_of_notMem {t : List Byte} (h : Config.chPoint ∉ t) : findPoint t = none :=
  List.findIdx?_eq_none_iff.2 fun _ hc =>
    isPoint_eq_false_iff.2 fun heq => h (heq ▸ hc)

/-- The first point stands right after the bytes before it. -/
theorem findPoint_append {ip : List Byte} (h : Config.chPoint ∉ ip) (fp : List Byte) :
    findPoint (ip ++ Config.chPoint :: fp) = some ip.length := by
  have hip : ip.findIdx? isPoint = none := findPoint_of_notMem h
  simp [findPoint, List.findIdx?_append, hip, List.findIdx?_cons, isPoint]

theorem slice_before_point (ip rest : List Byte) : slice (ip ++ rest) 0 ip.length = ip := by
  simp [slice]

theorem slice_after_point (ip fp : List Byte) (b : Byte) :
    slice (ip ++ b :: fp) (ip.length + 1) (ip ++ b :: fp).length = fp := by
  rw [slice, List.take_length]
  simp [List.drop_append]

theorem hasSign_iff {ip : List Byte} : hasSign ip = true ↔
    ip.head? = some Config.chPlus ∨ ip.head? = some Config.chMinus := by
  cases ip <;> simp [hasSign, isSign]

theorem isNegative_iff {ip : List Byte} :
    isNegative ip = true ↔ ip.head? = some Config.chMinus := by
  cases ip <;> simp [isNegative]

theorem signLength_eq (ip : List Byte) :
    (if ip.head? = some 0x2B ∨ ip.head? = some 0x2D then 1 else 0) = signLength ip := by
  simp only [signLength, hasSign_iff]

/-- The sign of a token is that of its bytes before the point. -/
theorem hasSign_append {ip : List Byte} (h : ip ≠ []) (rest : List Byte) :
    hasSign (ip ++ rest) = hasSign ip := by
  cases ip with
  | nil => exact absurd rfl h
  | cons => rfl

theorem isNegative_append {ip : List Byte} (h : ip ≠ []) (rest : List Byte) :
    isNegative (ip ++ rest) = isNegative ip := by
  cases ip with
  | nil => exact absurd rfl h
  | cons => rfl

/-! ### DECODE of each shape of token -/

/-- R163. -/
theorem decodeToken_of_no_point (P : Params) {t : List Byte} (h : Config.chPoint ∉ t) :
    decodeToken P t = .error .notDecimal := by
  simp only [decodeToken, findPoint_of_notMem h]

/-- R164. -/
theorem decodeToken_of_point_first (P : Params) (fp : List Byte) :
    decodeToken P (Config.chPoint :: fp) = .error .notDecimal := by
  have hpoint : findPoint (Config.chPoint :: fp) = some 0 := findPoint_append List.not_mem_nil fp
  simp only [decodeToken, hpoint, if_true]

section Split

variable (P : Params) {ip : List Byte} (hip : Config.chPoint ∉ ip) (hne : ip ≠ [])
  (fp : List Byte)

include hip hne

/-- DECODE by the parts of the token: the check of R166, then the value of R171. -/
theorem decodeToken_append : decodeToken P (ip ++ Config.chPoint :: fp) =
    if P.intMaxChars < ip.length - signLength ip then .error .tokenTooLong
    else .value (signedMilli (isNegative ip)
      (scan true ip * P.scale + scan false (norm3 P fp))) := by
  have hlen : ip.length ≠ 0 := fun h => hne (List.length_eq_zero_iff.1 h)
  simp only [decodeToken, findPoint_append hip, if_neg hlen, hasSign_append hne,
    isNegative_append hne, slice_before_point, slice_after_point]
  rfl

/-- R166. -/
theorem decodeToken_of_too_long (h : P.intMaxChars < ip.length - signLength ip) :
    decodeToken P (ip ++ Config.chPoint :: fp) = .error .tokenTooLong := by
  rw [decodeToken_append P hip hne, if_pos h]

/-- R171. -/
theorem decodeToken_of_decimal (h : ip.length - signLength ip ≤ P.intMaxChars) :
    decodeToken P (ip ++ Config.chPoint :: fp) = .value (signedMilli (isNegative ip)
      (scan true ip * P.scale + scan false (norm3 P fp))) := by
  rw [decodeToken_append P hip hne, if_neg (Nat.not_lt.2 h)]

end Split

/-- A refused token is refused for one of the three reasons (R95). -/
theorem decodeToken_error_cases {P : Params} {t : List Byte} {e : DecodeError}
    (h : decodeToken P t = .error e) :
    (e = .notDecimal ∧ (Config.chPoint ∉ t ∨ t.head? = some Config.chPoint)) ∨
    (e = .tokenTooLong ∧ ∃ ip fp, t = ip ++ Config.chPoint :: fp ∧ Config.chPoint ∉ ip ∧
      P.intMaxChars < ip.length - signLength ip) := by
  obtain hno | ⟨fp, rfl⟩ | ⟨ip, fp, rfl, hip, hne⟩ := token_cases t
  · rw [decodeToken_of_no_point P hno] at h
    cases h
    exact .inl ⟨rfl, .inl hno⟩
  · rw [decodeToken_of_point_first] at h
    cases h
    exact .inl ⟨rfl, .inr rfl⟩
  · rw [decodeToken_append P hip hne] at h
    split at h
    · next hlong => cases h; exact .inr ⟨rfl, ip, fp, rfl, hip, hlong⟩
    · cases h

/-- The tokens that decode to a value (R95). -/
theorem decodeToken_value_iff (P : Params) (t : List Byte) :
    (∃ v, decodeToken P t = .value v) ↔
      ∃ ip fp, t = ip ++ Config.chPoint :: fp ∧ Config.chPoint ∉ ip ∧ ip ≠ [] ∧
        ip.length - signLength ip ≤ P.intMaxChars := by
  constructor
  · rintro ⟨v, h⟩
    obtain hno | ⟨fp, rfl⟩ | ⟨ip, fp, rfl, hip, hne⟩ := token_cases t
    · rw [decodeToken_of_no_point P hno] at h; cases h
    · rw [decodeToken_of_point_first] at h; cases h
    · rw [decodeToken_append P hip hne] at h
      split at h
      · cases h
      · next hlen => exact ⟨ip, fp, rfl, hip, hne, Nat.not_lt.1 hlen⟩
  · rintro ⟨ip, fp, rfl, hip, hne, hlen⟩
    exact ⟨_, decodeToken_of_decimal P hip hne fp hlen⟩

/-! ### The DECODE row -/

/-- The row hands back what DECODE gives and changes nothing else (R160, log 12). -/
theorem exec_decode (t : List Byte) (s : State) :
    exec (.decode t) s = .next (s.returned (.decoded (decodeToken Config.hw t))) := rfl

/-- The row hands back one result. -/
theorem decodeToken_of_exec_decode {t : List Byte} {s : State} {r : DecodeResult}
    (h : exec (.decode t) s = .next (s.returned (.decoded r))) : decodeToken Config.hw t = r := by
  have hstate := Host.Outcome.next.inj ((exec_decode t s).symm.trans h)
  have hret := congrArg (fun u : State => u.scratch.ret) hstate
  simpa using hret

/-- Settles O27, by the three shapes of a token that DECODE refuses. -/
theorem decodeRefusesExactlySo : Obligations.DecodeRefusesExactlySo := by
  refine ⟨fun s ip fp hip => ?_, fun s t e h => ?_⟩
  · simp only [signLength_eq, exec_decode]
    refine ⟨by rw [decodeToken_of_no_point _ hip], by rw [decodeToken_of_point_first], ?_⟩
    intro hlong
    have hne : ip ≠ [] := by rintro rfl; simp at hlong
    rw [decodeToken_of_too_long _ hip hne fp hlong]
  · simp only [signLength_eq]
    exact decodeToken_error_cases (decodeToken_of_exec_decode h)

/-- The signed result as one product (R171). -/
theorem signedMilli_eq (neg : Bool) (v : Nat) :
    signedMilli neg v = BitVec.ofInt 32 ((if neg then -1 else 1) * (v : Int)) := by
  cases neg <;> simp [signedMilli]

/-- Settles O28: the value of R171, with the parts of the token as they stand before and after its
first point. -/
theorem everyOtherTokenDecodesToAValue : Obligations.EveryOtherTokenDecodesToAValue := by
  intro s ip fp hip hne hlen
  rw [signLength_eq] at hlen
  rw [exec_decode, decodeToken_of_decimal _ hip hne fp hlen, signedMilli_eq]
  simp only [isNegative_iff]
  push_cast
  rfl

/-! ### The accepted lines -/

/-- The loop of TOKENIZE ends Ok exactly when every field decodes (R145). -/
theorem decodeFields_ok_iff (P : Params) (fs : List (Field × List Byte)) (x : Regs) :
    (decodeFields P fs x).2 = .ok ↔ ∀ kt ∈ fs, ∃ v, decodeToken P kt.2 = .value v := by
  induction fs generalizing x with
  | nil => simp
  | cons kt rest ih =>
    obtain ⟨k, t⟩ := kt
    rw [List.forall_mem_cons]
    cases hd : decodeToken P t with
    | error e => simp [decodeFields_error hd]
    | value v => simp [decodeFields_value hd, ih]

/-- TOKENIZE returns Ok exactly when the three checks pass and every field decodes (R141 to R145). -/
theorem tokenizeLine_ok_iff (P : Params) (l : List Byte) (x : Regs) :
    (tokenizeLine P l x).2 = .ok ↔
      P.minLineLen ≤ l.length ∧ l.count Config.sepTab = Config.nTabs ∧
      l.head? ≠ some Config.sepTab ∧ ∀ t ∈ fieldTokens l, ∃ v, decodeToken P t = .value v := by
  rw [← length_tabIndices, Ne, ← head?_tabIndices]
  obtain ⟨h1, h⟩ | ⟨-, h2, h⟩ | ⟨-, -, h3, h⟩ | ⟨h1, h2, h3, h⟩ := tokenizeLine_cases P l x
  · simp [h, Nat.not_le.2 h1]
  · simp [h, h2]
  · simp [h, h3]
  · have hfive : (fieldTokens l).length ≤ fieldOrder.length := by
      rw [length_fieldTokens, ← length_tabIndices, h3]; decide
    have hfields := List.map_snd_zip hfive
    rw [h, commitRegs_result, decodeFields_ok_iff, ← hfields, List.forall_mem_map, hfields]
    simp [h1, h2, h3]

/-- At most four bytes of integer part, a leading sign not counted, said of its whole length (R98,
R166). -/
theorem length_sub_signLength_le_iff (ip : List Byte) :
    ip.length - signLength ip ≤ 4 ↔
      if ip.head? = some 0x2B ∨ ip.head? = some 0x2D then ip.length ≤ 5 else ip.length ≤ 4 := by
  rw [← signLength_eq]
  split <;> omega

/-- Settles O25: the checks and the shape of a token that decodes. -/
theorem acceptedLinesAreExactlyThese : Obligations.AcceptedLinesAreExactlyThese := by
  intro l x
  simp only [tokenizeLine_ok_iff, decodeToken_value_iff, ← length_sub_signLength_le_iff]
  rfl

end Sys2Proof.Machine

/-! PROOF. The CHAR rows: what each does to the scan of a token, and that run over a line they give the
decodes of its fields (R84, R144, R160 to R171; log 11). -/

namespace Sys2Proof.Machine

/-! ### The scan of a token, byte by byte -/

section Scan

variable (P : Params) {t : TokenScan}

theorem seePoint_first (h : t.point = none) :
    seePoint P t = { t with point := some t.seen, seen := t.seen + 1 } := by
  simp [seePoint, h]

/-- A later point is a byte like any other (R162). -/
theorem seePoint_later (h : t.point ≠ none) : seePoint P t = seeOther P t := by
  rw [seePoint, if_pos (Option.isSome_iff_ne_none.2 h)]

theorem seeSign_first (h : t.seen = 0) (neg : Bool) :
    seeSign P neg t = { t with signed := true, neg := neg, seen := 1 } := by
  rw [seeSign, if_pos h]

/-- A sign past index 0 is a byte like any other (R84). -/
theorem seeSign_later (h : t.seen ≠ 0) (neg : Bool) : seeSign P neg t = seeOther P t := by
  rw [seeSign, if_neg h]

theorem seeOther_int (h : t.point = none) : seeOther P t = stopInt t := by
  simp [seeOther, h]

theorem seeOther_frac (h : t.point ≠ none) : seeOther P t = stopFrac P t := by
  rw [seeOther, if_pos (Option.isSome_iff_ne_none.2 h)]

theorem seeDigit_int (h : t.point = none) (d : Nat) : seeDigit P d t = digitInt d t := by
  simp [seeDigit, h]

theorem seeDigit_frac (h : t.point ≠ none) (d : Nat) : seeDigit P d t = digitFrac P d t := by
  rw [seeDigit, if_pos (Option.isSome_iff_ne_none.2 h)]

theorem digitInt_running (h : t.intStop = false) (d : Nat) :
    digitInt d t = { t with intMag := t.intMag * 10 + d, seen := t.seen + 1 } := by
  simp [digitInt, h]

theorem digitInt_stopped (h : t.intStop = true) (d : Nat) :
    digitInt d t = { t with seen := t.seen + 1 } := by
  rw [digitInt, if_pos h]

theorem stopFrac_kept (h : t.kept < P.fracDigits) :
    stopFrac P t = { t with fracStop := true, kept := t.kept + 1, seen := t.seen + 1 } := by
  rw [stopFrac, if_pos h]

theorem stopFrac_cut (h : P.fracDigits ≤ t.kept) : stopFrac P t = { t with seen := t.seen + 1 } := by
  rw [stopFrac, if_neg (Nat.not_lt.2 h)]

theorem digitFrac_running (h : t.kept < P.fracDigits) (hs : t.fracStop = false) (d : Nat) :
    digitFrac P d t =
      { t with fracMag := t.fracMag * 10 + d, kept := t.kept + 1, seen := t.seen + 1 } := by
  simp [digitFrac, h, hs]

theorem digitFrac_stopped (h : t.kept < P.fracDigits) (hs : t.fracStop = true) (d : Nat) :
    digitFrac P d t = { t with kept := t.kept + 1, seen := t.seen + 1 } := by
  rw [digitFrac, if_pos h, if_pos hs]

theorem digitFrac_cut (h : P.fracDigits ≤ t.kept) (d : Nat) :
    digitFrac P d t = { t with seen := t.seen + 1 } := by
  rw [digitFrac, if_neg (Nat.not_lt.2 h)]

end Scan

/-! ### The rows -/

theorem exec_chTab (s : State) : exec .chTab s = .next { s with scratch := { s.scratch with
    closed := s.scratch.closed ++ [finishToken Config.hw s.scratch.tok], tok := TokenScan.start } } :=
  rfl

theorem exec_chPoint (s : State) :
    exec .chPoint s = .next (s.setTok (seePoint Config.hw s.scratch.tok)) := rfl

theorem exec_chPlus (s : State) :
    exec .chPlus s = .next (s.setTok (seeSign Config.hw false s.scratch.tok)) := rfl

theorem exec_chMinus (s : State) :
    exec .chMinus s = .next (s.setTok (seeSign Config.hw true s.scratch.tok)) := rfl

theorem exec_chDigit07 (d : BitVec 3) (s : State) :
    exec (.chDigit07 d) s = .next (s.setTok (seeDigit Config.hw d.toNat s.scratch.tok)) := rfl

theorem exec_chDigit89 (d : BitVec 1) (s : State) :
    exec (.chDigit89 d) s = .next (s.setTok (seeDigit Config.hw (8 + d.toNat) s.scratch.tok)) := rfl

theorem exec_chOther (c : Byte) (s : State) :
    exec (.chOther c) s = .next (s.setTok (seeOther Config.hw s.scratch.tok)) := rfl

/-- Settles O32, each clause by the rule of the row's byte in that part of the token. -/
theorem charRowsAdvanceTheScan : Obligations.CharRowsAdvanceTheScan := by
  intro s c d e k
  simp only [exec_chPoint, exec_chPlus, exec_chMinus, exec_chDigit07, exec_chDigit89, exec_chOther]
  refine ⟨exec_chTab s, fun hp => ?_, fun hp => ?_, fun h0 => ?_, fun h0 => ?_, fun hp => ?_,
    fun hp hs => ?_, fun hp hs => ?_, fun hp hk => ?_, fun hp hk hs => ?_, fun hp hk hs => ?_,
    fun hp hk => ?_⟩
  · rw [seePoint_first _ hp]
  · rw [seePoint_later _ hp]
  · rw [seeSign_first _ h0, seeSign_first _ h0]; exact ⟨rfl, rfl⟩
  · rw [seeSign_later _ h0, seeSign_later _ h0]; exact ⟨rfl, rfl⟩
  · rw [seeOther_int _ hp]; rfl
  · rw [seeDigit_int _ hp, seeDigit_int _ hp, digitInt_running hs, digitInt_running hs]
    exact ⟨rfl, rfl⟩
  · rw [seeDigit_int _ hp, seeDigit_int _ hp, digitInt_stopped hs, digitInt_stopped hs]
    exact ⟨rfl, rfl⟩
  · rw [seeOther_frac _ hp, stopFrac_kept _ hk]
  · rw [seeDigit_frac _ hp, seeDigit_frac _ hp, digitFrac_running _ hk hs, digitFrac_running _ hk hs]
    exact ⟨rfl, rfl⟩
  · rw [seeDigit_frac _ hp, seeDigit_frac _ hp, digitFrac_stopped _ hk hs, digitFrac_stopped _ hk hs]
    exact ⟨rfl, rfl⟩
  · rw [seeOther_frac _ hp, seeDigit_frac _ hp, seeDigit_frac _ hp, stopFrac_cut _ hk,
      digitFrac_cut _ hk, digitFrac_cut _ hk]
    exact ⟨rfl, rfl, rfl⟩

/-! ### One byte by its class (R84) -/

/-- What the CHAR row of a byte that is no tab does to the scan. -/
def seeByte (P : Params) (t : TokenScan) (c : Byte) : TokenScan :=
  if isPoint c then seePoint P t
  else if isSign c then seeSign P (c == Config.chMinus) t
  else if isDigit c then seeDigit P (digitVal c) t
  else seeOther P t

/-- No digit is a point or a sign (R84). -/
theorem class_of_digit {c : Byte} (h : isDigit c = true) : isPoint c = false ∧ isSign c = false := by
  revert c; decide

/-- The digit bytes of the two masks, with their values (R84, R85). -/
theorem digit07 (d : BitVec 3) :
    isDigit (0b00110#5 ++ d) = true ∧ digitVal (0b00110#5 ++ d) = d.toNat := by
  revert d; decide

theorem digit89 (d : BitVec 1) :
    isDigit (0b0011100#7 ++ d) = true ∧ digitVal (0b0011100#7 ++ d) = 8 + d.toNat := by
  revert d; decide

theorem seeByte_digit (P : Params) {c : Byte} (h : isDigit c = true) (t : TokenScan) :
    seeByte P t c = seeDigit P (digitVal c) t := by
  obtain ⟨hpoint, hsign⟩ := class_of_digit h
  simp [seeByte, hpoint, hsign, h]

theorem seeByte_other (P : Params) {c : Byte} (h : isOther c = true) (t : TokenScan) :
    seeByte P t c = seeOther P t := by
  simp only [isOther, Bool.not_eq_true', Bool.or_eq_false_iff] at h
  obtain ⟨⟨⟨-, hpoint⟩, hsign⟩, hdigit⟩ := h
  simp [seeByte, hpoint, hsign, hdigit]

theorem decodeChar_sepTab : decodeChar Config.sepTab = .chTab := rfl

/-- The row of a byte that is no tab replaces the scan by the one that has seen the byte. -/
theorem exec_decodeChar_data {c : Byte} (hc : isTab c = false) (s : State) :
    exec (decodeChar c) s = .next (s.setTok (seeByte Config.hw s.scratch.tok c)) := by
  obtain ⟨rfl, -⟩ | ⟨rfl, h⟩ | ⟨rfl, h⟩ | ⟨rfl, h⟩ | ⟨d, rfl, h⟩ | ⟨d, rfl, h⟩ | ⟨ho, h⟩ :=
    decodeChar_cases c
  · cases hc
  · rw [h]; rfl
  · rw [h]; rfl
  · rw [h]; rfl
  · rw [h, exec_chDigit07, seeByte_digit _ (digit07 d).1, (digit07 d).2]
  · rw [h, exec_chDigit89, seeByte_digit _ (digit89 d).1, (digit89 d).2]
  · rw [h, exec_chOther, seeByte_other _ ho]

/-! ### The integer part -/

section IntegerPart

variable (P : Params) {t : TokenScan}

theorem seeByte_first_point (hp : t.point = none) :
    seeByte P t Config.chPoint = { t with point := some t.seen, seen := t.seen + 1 } :=
  seePoint_first P hp

theorem seeByte_int_digit {c : Byte} (hp : t.point = none) (hc : isDigit c = true) :
    seeByte P t c = digitInt (digitVal c) t := by
  rw [seeByte_digit P hc, seeDigit_int P hp]

/-- In the integer part every other byte stops the scan, a sign too unless it comes first (R168). -/
theorem seeByte_int_stop {c : Byte} (hp : t.point = none) (hpoint : isPoint c = false)
    (hdigit : isDigit c = false) (hsign : t.seen ≠ 0 ∨ isSign c = false) :
    seeByte P t c = stopInt t := by
  rw [← seeOther_int P hp]
  obtain h0 | hsign := hsign
  · simp [seeByte, hpoint, hdigit, seeSign_later P h0]
  · simp [seeByte, hpoint, hdigit, hsign]

/-- The scan over bytes of the integer part, its sign already past: SCAN's loop goes on from the
magnitude so far, unless it has stopped (R168). -/
theorem foldl_seeByte_int {u : List Byte} (hu : Config.chPoint ∉ u) (hp : t.point = none)
    (hsign : t.seen ≠ 0 ∨ hasSign u = false) :
    ∃ stop, u.foldl (seeByte P) t = { t with
      seen := t.seen + u.length
      intMag := if t.intStop then t.intMag else scanDigits t.intMag u
      intStop := stop } := by
  induction u generalizing t with
  | nil => exact ⟨t.intStop, by simp [scanDigits]⟩
  | cons c u ih =>
    have hpoint : isPoint c = false :=
      isPoint_eq_false_iff.2 fun h => hu (h ▸ List.mem_cons_self)
    have hu : Config.chPoint ∉ u := fun h => hu (List.mem_cons_of_mem c h)
    rw [List.foldl_cons, List.length_cons, Nat.add_comm u.length, ← Nat.add_assoc]
    cases hdigit : isDigit c with
    | true =>
      rw [seeByte_int_digit P hp hdigit, scanDigits_digit hdigit]
      cases hstop : t.intStop with
      | true =>
        rw [digitInt_stopped hstop]
        obtain ⟨stop, h⟩ := ih (t := { t with seen := t.seen + 1 }) hu hp (.inl (Nat.succ_ne_zero _))
        exact ⟨stop, h.trans (by simp [hstop])⟩
      | false =>
        rw [digitInt_running hstop]
        obtain ⟨stop, h⟩ := ih (t := { t with
          intMag := t.intMag * 10 + digitVal c, seen := t.seen + 1 }) hu hp
          (.inl (Nat.succ_ne_zero _))
        exact ⟨stop, h.trans (by simp [hstop])⟩
    | false =>
      rw [seeByte_int_stop P hp hpoint hdigit hsign, scanDigits_stop hdigit]
      obtain ⟨stop, h⟩ := ih (t := stopInt t) hu hp (.inl (Nat.succ_ne_zero _))
      exact ⟨stop, h.trans (by simp [stopInt])⟩

/-- The scan after the bytes before the point, from a fresh one: DECODE's sign and SCAN's magnitude
(R165, R168). -/
theorem foldl_seeByte_start {ip : List Byte} (hip : Config.chPoint ∉ ip) :
    ∃ stop, ip.foldl (seeByte P) TokenScan.start = { TokenScan.start with
      seen := ip.length
      signed := hasSign ip
      neg := isNegative ip
      intMag := scan true ip
      intStop := stop } := by
  cases hsign : hasSign ip with
  | false =>
    obtain ⟨stop, h⟩ := foldl_seeByte_int P (t := TokenScan.start) hip rfl (.inr hsign)
    have hneg : isNegative ip = false := by
      by_contra h
      have hminus := isNegative_iff.1 (Bool.eq_true_of_not_eq_false h)
      rw [hasSign_iff.2 (.inr hminus)] at hsign
      cases hsign
    exact ⟨stop, h.trans (by simp [TokenScan.start, scan, hsign, hneg])⟩
  | true =>
    cases ip with
    | nil => cases hsign
    | cons c u =>
      have hu : Config.chPoint ∉ u := fun h => hip (List.mem_cons_of_mem c h)
      have hpoint : isPoint c = false :=
        isPoint_eq_false_iff.2 fun h => hip (h ▸ List.mem_cons_self)
      have hfirst : seeByte P TokenScan.start c =
          { TokenScan.start with signed := true, neg := isNegative (c :: u), seen := 1 } := by
        have hc : isSign c = true := hsign
        simp [seeByte, hpoint, hc, seeSign, TokenScan.start, isNegative]
      obtain ⟨stop, h⟩ := foldl_seeByte_int P (t := { TokenScan.start with
        signed := true, neg := isNegative (c :: u), seen := 1 }) hu rfl (.inl Nat.one_ne_zero)
      refine ⟨stop, ?_⟩
      rw [List.foldl_cons, hfirst, h]
      simp [TokenScan.start, scan, hsign, Nat.add_comm]

end IntegerPart

/-! ### The fraction -/

/-- NORM3's bytes for `n` digits instead of FRAC_DIGITS (R167). -/
def paddedTo (n : Nat) (fp : List Byte) : List Byte :=
  (List.range n).map fun i => fp.getD i Config.ch0

theorem norm3_eq_paddedTo (P : Params) (fp : List Byte) : norm3 P fp = paddedTo P.fracDigits fp := rfl

theorem paddedTo_succ_cons (n : Nat) (c : Byte) (fp : List Byte) :
    paddedTo (n + 1) (c :: fp) = c :: paddedTo n fp := by
  rw [paddedTo, List.range_succ_eq_map, List.map_cons, List.map_map]
  rfl

theorem paddedTo_succ_nil (n : Nat) : paddedTo (n + 1) [] = Config.ch0 :: paddedTo n [] := by
  rw [paddedTo, List.range_succ_eq_map, List.map_cons, List.map_map]
  rfl

/-- Each '0' of the pad is one more digit (R167). -/
theorem scanDigits_pad (n acc : Nat) : scanDigits acc (paddedTo n []) = acc * 10 ^ n := by
  induction n generalizing acc with
  | zero => simp [paddedTo, scanDigits]
  | succ n ih =>
    have hdigit : isDigit Config.ch0 = true := rfl
    have hval : digitVal Config.ch0 = 0 := rfl
    rw [paddedTo_succ_nil, scanDigits_digit hdigit, hval, ih, pow_succ', Nat.add_zero, Nat.mul_assoc]

/-- The `F` a scan comes to when the bytes `fp` of the fraction are still to come (R167, R169). -/
def fracMagnitudeAfter (P : Params) (t : TokenScan) (fp : List Byte) : Nat :=
  if t.fracStop then t.fracMag
  else scanDigits t.fracMag (paddedTo (P.fracDigits - t.kept) fp)

section Fraction

variable (P : Params) {t : TokenScan}

theorem fracMagnitudeAfter_nil : fracMagnitudeAfter P t [] = fracMagnitude P t := by
  rw [fracMagnitudeAfter, fracMagnitude, scanDigits_pad]

theorem seeByte_frac_digit {c : Byte} (hp : t.point ≠ none) (hc : isDigit c = true) :
    seeByte P t c = digitFrac P (digitVal c) t := by
  rw [seeByte_digit P hc, seeDigit_frac P hp]

/-- After the point every byte that is no digit stops the scan, a second point and a sign too
(R162, R169). -/
theorem seeByte_frac_stop {c : Byte} (hp : t.point ≠ none) (hseen : t.seen ≠ 0)
    (hc : isDigit c = false) : seeByte P t c = stopFrac P t := by
  simp [seeByte, hc, seePoint_later P hp, seeSign_later P hseen, seeOther_frac P hp]

/-- Seeing the next byte of the fraction leaves what the fraction comes to. -/
theorem fracMagnitudeAfter_cons (hp : t.point ≠ none) (hseen : t.seen ≠ 0) (c : Byte)
    (fp : List Byte) :
    fracMagnitudeAfter P (seeByte P t c) fp = fracMagnitudeAfter P t (c :: fp) := by
  by_cases hkept : t.kept < P.fracDigits
  · obtain ⟨n, hn⟩ : ∃ n, P.fracDigits - t.kept = n + 1 := ⟨P.fracDigits - t.kept - 1, by omega⟩
    have hn' : P.fracDigits - (t.kept + 1) = n := by omega
    cases hc : isDigit c with
    | false =>
      rw [seeByte_frac_stop P hp hseen hc, stopFrac_kept P hkept]
      simp [fracMagnitudeAfter, hn, paddedTo_succ_cons, scanDigits_stop hc]
    | true =>
      rw [seeByte_frac_digit P hp hc]
      cases hs : t.fracStop with
      | true => simp [digitFrac_stopped P hkept hs, fracMagnitudeAfter, hs]
      | false =>
        simp [digitFrac_running P hkept hs, fracMagnitudeAfter, hs, hn, hn', paddedTo_succ_cons,
          scanDigits_digit hc]
  · have hcut : P.fracDigits ≤ t.kept := Nat.not_lt.1 hkept
    have hsee : seeByte P t c = { t with seen := t.seen + 1 } := by
      cases hc : isDigit c with
      | false => rw [seeByte_frac_stop P hp hseen hc, stopFrac_cut P hcut]
      | true => rw [seeByte_frac_digit P hp hc, digitFrac_cut P hcut]
    simp [hsee, fracMagnitudeAfter, Nat.sub_eq_zero_of_le hcut, paddedTo]

/-- A byte of the fraction leaves the point, the sign and the integer part. -/
theorem seeByte_frac_keeps (hp : t.point ≠ none) (hseen : t.seen ≠ 0) (c : Byte) :
    (seeByte P t c).point = t.point ∧ (seeByte P t c).signed = t.signed ∧
      (seeByte P t c).neg = t.neg ∧ (seeByte P t c).intMag = t.intMag ∧
      (seeByte P t c).seen = t.seen + 1 := by
  cases hc : isDigit c with
  | false =>
    rw [seeByte_frac_stop P hp hseen hc, stopFrac]
    split <;> exact ⟨rfl, rfl, rfl, rfl, rfl⟩
  | true =>
    rw [seeByte_frac_digit P hp hc, digitFrac]
    split_ifs <;> exact ⟨rfl, rfl, rfl, rfl, rfl⟩

/-- The result of a token of which the bytes `fp` of the fraction are still to come. -/
theorem finishToken_foldl_frac {p : Nat} (hp : t.point = some p) (hseen : t.seen ≠ 0)
    (fp : List Byte) :
    finishToken P (fp.foldl (seeByte P) t) =
      if p = 0 then .error .notDecimal
      else if P.intMaxChars < p - (if t.signed then 1 else 0) then .error .tokenTooLong
      else .value (signedMilli t.neg (t.intMag * P.scale + fracMagnitudeAfter P t fp)) := by
  induction fp generalizing t with
  | nil => rw [List.foldl_nil, fracMagnitudeAfter_nil, finishToken, hp]
  | cons c fp ih =>
    have hne : t.point ≠ none := by simp [hp]
    obtain ⟨hpoint, hsigned, hneg, hint, hseen'⟩ := seeByte_frac_keeps P hne hseen c
    rw [List.foldl_cons, ih (hpoint.trans hp) (by omega), hsigned, hneg, hint,
      fracMagnitudeAfter_cons P hne hseen]

end Fraction

/-! ### A token, and a line -/

/-- The bytes of a token seen one after another give DECODE of it (R160). -/
theorem finishToken_foldl_start (P : Params) (u : List Byte) :
    finishToken P (u.foldl (seeByte P) TokenScan.start) = decodeToken P u := by
  obtain hno | ⟨fp, rfl⟩ | ⟨ip, fp, rfl, hip, hne⟩ := token_cases u
  · obtain ⟨stop, h⟩ := foldl_seeByte_start P hno
    rw [h, decodeToken_of_no_point P hno]
    rfl
  · rw [List.foldl_cons, seeByte_first_point P rfl, finishToken_foldl_frac P rfl Nat.one_ne_zero,
      decodeToken_of_point_first]
    rfl
  · obtain ⟨stop, h⟩ := foldl_seeByte_start P hip
    have hlen : ip.length ≠ 0 := fun h => hne (List.length_eq_zero_iff.1 h)
    rw [List.foldl_append, List.foldl_cons, h, seeByte_first_point P rfl,
      finishToken_foldl_frac P rfl (Nat.succ_ne_zero _), decodeToken_append P hip hne, if_neg hlen,
      norm3_eq_paddedTo]
    rfl

/-- What a scan comes to when the bytes `u` of its token are still to come. -/
def resultAfter (t : TokenScan) (u : List Byte) : DecodeResult :=
  finishToken Config.hw (u.foldl (seeByte Config.hw) t)

/-- The rows of a line's bytes, from any scan: the first field ends the token being seen, every other
field is a token of its own (R144). -/
theorem execAll_decodeChar (l : List Byte) (s : State) :
    ∃ t first others, execAll (l.map decodeChar) s = .next t ∧ fieldTokens l = first :: others ∧
      t.scratch.closed ++ [finishToken Config.hw t.scratch.tok] =
        s.scratch.closed ++ resultAfter s.scratch.tok first ::
          others.map (resultAfter TokenScan.start) ∧
      t.block = s.block ∧ t.trace = s.trace ∧ t.inbox = s.inbox := by
  induction l generalizing s with
  | nil => exact ⟨s, [], [], rfl, rfl, rfl, rfl, rfl, rfl⟩
  | cons c l ih =>
    rw [List.map_cons]
    cases hc : isTab c with
    | true =>
      obtain rfl := isTab_iff.1 hc
      rw [decodeChar_sepTab, execAll_cons (exec_chTab s), fieldTokens_cons_tab hc]
      obtain ⟨t, first, others, hrun, hfields, hclosed, hframe⟩ := ih _
      refine ⟨t, [], first :: others, hrun, by rw [hfields], ?_, hframe⟩
      rw [hclosed]
      simp [resultAfter]
    | false =>
      rw [execAll_cons (exec_decodeChar_data hc s)]
      obtain ⟨t, first, others, hrun, hfields, hclosed, hframe⟩ := ih _
      refine ⟨t, c :: first, others, hrun, ?_, ?_, hframe⟩
      · rw [fieldTokens_cons_data hc, hfields, List.modifyHead_cons]
      · rw [hclosed]; rfl

/-- Settles O33: from a fresh scan the first field too is a token of its own, and each is decoded. -/
theorem charRowsRunOverALineAreItsDecodes : Obligations.CharRowsRunOverALineAreItsDecodes := by
  intro s l htok hclosed
  obtain ⟨t, first, others, hrun, hfields, hresults, hframe⟩ := execAll_decodeChar l s
  have hdecode : resultAfter TokenScan.start = decodeToken Config.hw :=
    funext (finishToken_foldl_start Config.hw)
  refine ⟨t, hrun, ?_, hframe⟩
  rw [hresults, hclosed, htok, hfields, hdecode, List.map_cons, List.nil_append]

end Sys2Proof.Machine

/-! PROOF. The LineAssembler: the two classes of instruction that feed it, what each does to the state, and
the runs of FEED that make up a line (R122 to R130). -/

namespace Sys2Proof.Machine

/-! ### Which instructions end a line and which append -/

theorem isTerminator_iff {b : Byte} :
    isTerminator b = true ↔ b = Config.termLf ∨ b = Config.termCr := by
  simp [isTerminator]

theorem endsLine_feed {b : Byte} (h : isTerminator b = true) : EndsLine (.feed b) := .inl ⟨b, rfl, h⟩

theorem appends_feed {b : Byte} (h : isTerminator b = false) : Appends b (.feed b) := .inl ⟨rfl, h⟩

/-- Either terminator fed, its own row, and LINE_COMPLETE end the line (R81, R122). -/
theorem endsLine_of_forms {i : Instr}
    (hi : i = .feed Config.termLf ∨ i = .feed Config.termCr ∨ i = .feedLf ∨ i = .feedCr ∨
      i = .lineComplete) : EndsLine i := by
  obtain rfl | rfl | hrow := hi
  · exact endsLine_feed rfl
  · exact endsLine_feed rfl
  · exact .inr hrow

/-- A data byte fed, its own row, and APPEND append it (R81, R122). -/
theorem appends_of_forms {i : Instr} {b : Byte}
    (hi : i = .feed b ∨ i = .feedAppend b ∨ i = .append b)
    (hb : isTerminator b = false) : Appends b i := by
  obtain rfl | hrow := hi
  · exact appends_feed hb
  · exact .inr hrow

/-- Whatever ends a line runs LINE_COMPLETE (R122). -/
theorem exec_of_endsLine {i : Instr} (hi : EndsLine i) (s : State) :
    exec i s = .next (s.commit (completeLine Config.hw s.block)) := by
  obtain ⟨b, rfl, hb⟩ | rfl | rfl | rfl := hi
  · rw [← feedByte_terminator Config.hw hb]; rfl
  · rfl
  · rfl
  · rfl

/-- Whatever appends a byte runs APPEND (R122). -/
theorem exec_of_appends {i : Instr} {b : Byte} (hi : Appends b i) (s : State) :
    exec i s = .next (s.commit (appendByte b s.block)) := by
  obtain ⟨rfl, hb⟩ | rfl | rfl := hi
  · rw [← feedByte_data Config.hw hb]; rfl
  · rfl
  · rfl

/-! ### What each does to the state -/

theorem commit_unchanged (s : State) : s.commit (s.block, []) = s := by simp [State.commit]

section Effects

variable {i : Instr} {b : Byte} {s : State}

/-- APPEND while `ovf` is set (R125). -/
theorem exec_append_drop (hi : Appends b i) (hovf : s.block.ovf = true) : exec i s = .next s := by
  rw [exec_of_appends hi, appendByte_drop hovf, commit_unchanged]

/-- APPEND below LINE_CAP (R123). -/
theorem exec_append_store (hi : Appends b i) (hovf : s.block.ovf = false)
    (hlen : s.block.len.val < Config.lineCap) :
    exec i s = .next { s with block := storeByte b s.block hlen } := by
  rw [exec_of_appends hi, appendByte_store hovf hlen]
  simp [State.commit]

/-- APPEND with the buffer full (R124). -/
theorem exec_append_overflow (hi : Appends b i) (hovf : s.block.ovf = false)
    (hlen : s.block.len.val = Config.lineCap) :
    exec i s = .next { s with
      block := setOvf true s.block, trace := s.trace ++ [.diag .bufferOverflow] } := by
  rw [exec_of_appends hi, appendByte_overflow hovf hlen]
  rfl

/-- LINE_COMPLETE of an overflowed line (R127). -/
theorem exec_complete_discard (hi : EndsLine i) (hovf : s.block.ovf = true) :
    exec i s = .next { s with block := setOvf false (clearLine s.block) } := by
  rw [exec_of_endsLine hi, completeLine_overflowed _ hovf]
  simp [State.commit]

/-- LINE_COMPLETE of any other line (R126). -/
theorem exec_complete_tokenize (hi : EndsLine i) (hovf : s.block.ovf = false) :
    exec i s = .next { s with
      block := clearLine { s.block with
        x := (tokenizeLine Config.hw (lineBytes s.block) s.block.x).1 }
      trace := s.trace ++
        reportResult (tokenizeLine Config.hw (lineBytes s.block) s.block.x).2 } := by
  rw [exec_of_endsLine hi, completeLine_tokenized _ hovf]
  rfl

end Effects

/-! ### One byte -/

/-- Settles O12, by the class of the byte and the cases of APPEND. -/
theorem feedDispatchesOnTheByte : Obligations.FeedDispatchesOnTheByte := by
  intro b s
  have hdata (hlf : b ≠ Config.termLf) (hcr : b ≠ Config.termCr) : Appends b (.feed b) :=
    appends_feed (isTerminator_eq_false_iff.2 ⟨hlf, hcr⟩)
  refine ⟨fun hb => ?_, fun hlf hcr hovf => ?_, fun hlf hcr hovf hlen => ?_,
    fun hlf hcr _ _ => ?_⟩
  · rw [exec_of_endsLine (endsLine_feed (isTerminator_iff.2 hb))]; rfl
  · exact exec_append_drop (hdata hlf hcr) hovf
  · exact exec_append_overflow (hdata hlf hcr) hovf hlen
  · rw [exec_of_appends (hdata hlf hcr)]; rfl

/-- Settles O13: read after write, at `len` and elsewhere. -/
theorem appendStoresTheByteAtLen : Obligations.AppendStoresTheByteAtLen := by
  intro b s i hi hlf hcr hwf hovf hlen
  have happ := appends_of_forms hi (isTerminator_eq_false_iff.2 ⟨hlf, hcr⟩)
  exact ⟨_, exec_append_store happ hovf hlen, rfl, read_write hwf s.block.len.val b, rfl⟩

/-- Settles O14: the overflow and the drop case of APPEND, whichever form runs it. -/
theorem fullBufferOverflowsOnceThenDrops : Obligations.FullBufferOverflowsOnceThenDrops := by
  intro b s i hi hlf hcr
  have happ := appends_of_forms hi (isTerminator_eq_false_iff.2 ⟨hlf, hcr⟩)
  exact ⟨exec_append_overflow happ, exec_append_drop happ⟩

/-- Settles O15: the records of `reportResult` are those the statement lists, result by result. -/
theorem terminatorTokenizesAndClearsTheLine : Obligations.TerminatorTokenizesAndClearsTheLine := by
  intro s i hi hovf r
  rw [exec_complete_tokenize (endsLine_of_forms hi) hovf]
  change Host.Outcome.next { s with
    block := { s.block with x := r.1, len := 0 }, trace := s.trace ++ reportResult r.2 } = _
  cases r.2 <;> rfl

/-- Settles O16: the discarding case of LINE_COMPLETE, whichever form runs it. -/
theorem overflowedLineIsDiscardedUnparsed : Obligations.OverflowedLineIsDiscardedUnparsed :=
  fun _ _ hi hovf => exec_complete_discard (endsLine_of_forms hi) hovf

/-! ### A run of terminators (R128) -/

/-- Nothing is held and the line has not overflowed: what every terminator leaves. -/
structure LineEmpty (m : Block) : Prop where
  ovf_eq : m.ovf = false
  len_eq : m.len = 0

theorem LineEmpty.lineBytes_eq {m : Block} (h : LineEmpty m) : lineBytes m = [] :=
  List.length_eq_zero_iff.1 ((length_lineBytes m).trans (congrArg Fin.val h.len_eq))

theorem LineEmpty.clearLine_eq {m : Block} (h : LineEmpty m) : clearLine m = m := by
  unfold clearLine; rw [← h.len_eq]

/-- Both cases of LINE_COMPLETE leave the line empty (R126, R127). -/
theorem lineEmpty_completeLine (P : Params) (m : Block) : LineEmpty (completeLine P m).1 := by
  obtain ⟨-, he⟩ | ⟨hovf, he⟩ := completeLine_cases P m
  · rw [he]; exact ⟨rfl, rfl⟩
  · rw [he]; exact ⟨hovf, rfl⟩

/-- No bytes are fewer than MIN_LINE_LEN (R141). -/
theorem tokenizeLine_nil (x : Regs) : tokenizeLine Config.hw [] x = (x, .tooShort) := rfl

/-- The end of an empty line is one TooShort and nothing else (R99, R128). -/
theorem exec_complete_empty {i : Instr} {s : State} (hi : EndsLine i) (h : LineEmpty s.block) :
    exec i s = .next (s.hand [.diag .tooShort]) := by
  rw [exec_complete_tokenize hi h.ovf_eq, h.lineBytes_eq, tokenizeLine_nil, h.clearLine_eq]
  rfl

/-- Terminators on an empty line: one TooShort each (R128). -/
theorem execAll_terminators {s : State} {es : List Byte} (hs : LineEmpty s.block)
    (hes : ∀ b ∈ es, isTerminator b = true) :
    execAll (es.map .feed) s = .next (s.hand (List.replicate es.length (.diag .tooShort))) := by
  induction es generalizing s with
  | nil => simp [State.hand]
  | cons e es ih =>
    obtain ⟨he, hes⟩ := List.forall_mem_cons.1 hes
    have hnext : LineEmpty (s.hand [.diag .tooShort]).block := hs
    rw [List.map_cons, execAll_cons (exec_complete_empty (endsLine_feed he) hs), ih hnext hes]
    simp [State.hand, List.replicate_succ]

/-- Settles O17: the first terminator leaves an empty line, whatever it found. -/
theorem eachTerminatorMoreIsOneTooShort : Obligations.EachTerminatorMoreIsOneTooShort := by
  intro s e es hes
  obtain ⟨he, hes⟩ := List.forall_mem_cons.1 fun b hb => isTerminator_iff.2 (hes b hb)
  have hend := endsLine_feed he
  refine ⟨fun hovf hlen => exec_complete_empty hend ⟨hovf, hlen⟩, _, exec_of_endsLine hend s, ?_⟩
  rw [List.map_cons, execAll_cons (exec_of_endsLine hend s)]
  exact execAll_terminators (lineEmpty_completeLine Config.hw s.block) hes

/-! ### A line fed byte by byte (R130) -/

/-- The state with another line held: only the buffer's bytes and the length differ. -/
def State.withLine (s : State) (buf : Memory) (len : Fin (Config.lineCap + 1)) : State :=
  { s with block := { s.block with buf := buf, len := len } }

/-- Data bytes for which there is room are stored one after another, and nothing else changes (R123). -/
theorem execAll_data {s : State} {l : List Byte} (hovf : s.block.ovf = false)
    (hroom : s.block.len.val + l.length ≤ Config.lineCap)
    (hl : ∀ b ∈ l, isTerminator b = false) :
    ∃ buf len, execAll (l.map .feed) s = .next (s.withLine buf len) ∧
      len.val = s.block.len.val + l.length ∧
      (s.block.buf.wf = true → lineBytes (s.withLine buf len).block = lineBytes s.block ++ l) := by
  induction l generalizing s with
  | nil => exact ⟨s.block.buf, s.block.len, rfl, rfl, fun _ => (List.append_nil _).symm⟩
  | cons b l ih =>
    obtain ⟨hb, hl⟩ := List.forall_mem_cons.1 hl
    rw [List.length_cons] at hroom
    have hlen : s.block.len.val < Config.lineCap := by omega
    obtain ⟨buf, len, hrun, hlen', hline⟩ :=
      ih (s := { s with block := storeByte b s.block hlen }) hovf (by simp; omega) hl
    refine ⟨buf, len, ?_, ?_, fun hwf => ?_⟩
    · rw [List.map_cons, execAll_cons (exec_append_store (appends_feed hb) hovf hlen), hrun]
      rfl
    · rw [hlen', List.length_cons]; simp; omega
    · calc lineBytes (s.withLine buf len).block
          = lineBytes (storeByte b s.block hlen) ++ l := hline (write_keeps_wf hwf hlen b)
        _ = lineBytes s.block ++ b :: l := by
            rw [lineBytes_storeByte hwf, List.append_assoc, List.singleton_append]

/-- Data bytes fed while `ovf` is set are lost (R125). -/
theorem execAll_dropped {s : State} {l : List Byte} (hovf : s.block.ovf = true)
    (hl : ∀ b ∈ l, isTerminator b = false) : execAll (l.map .feed) s = .next s := by
  induction l with
  | nil => rfl
  | cons b l ih =>
    obtain ⟨hb, hl⟩ := List.forall_mem_cons.1 hl
    rw [List.map_cons, execAll_cons (exec_append_drop (appends_feed hb) hovf), ih hl]

/-- One instruction after a run. -/
theorem execAll_concat {l : List Instr} {s t : State} (h : execAll l s = .next t) (i : Instr) :
    execAll (l ++ [i]) s = exec i t := by
  obtain ⟨u, hu⟩ := exec_next i t
  rw [execAll_append h, execAll_cons hu, execAll_nil, hu]

/-- Settles O18: the bytes are stored in order, and the terminator tokenizes what is held. -/
theorem fedLineIsTheLineTokenized : Obligations.FedLineIsTheLineTokenized := by
  intro s l e hwf hlen hovf hl hdata he
  have hempty : LineEmpty s.block := ⟨hovf, hlen⟩
  have hend := endsLine_feed (isTerminator_iff.2 he)
  obtain ⟨buf, len, hrun, -, hline⟩ :=
    execAll_data hovf (by simpa [hlen] using hl) fun b hb => isTerminator_eq_false_iff.2 (hdata b hb)
  have hline : lineBytes (s.withLine buf len).block = l := by
    rw [hline hwf, hempty.lineBytes_eq, List.nil_append]
  refine ⟨⟨_, hrun, hline, rfl⟩, ?_⟩
  rw [List.map_append, List.map_singleton, execAll_concat hrun,
    exec_complete_tokenize (s := s.withLine buf len) hend hovf, hline]
  exact ⟨_, rfl, by simp [State.withLine, clearLine, hlen]⟩

/-- More data bytes than there is room for: one BufferOverflow, and the buffer full and overflowed (R123
to R125). -/
theorem execAll_overlong {s : State} {l : List Byte} (hs : LineEmpty s.block)
    (hlong : Config.lineCap < l.length) (hl : ∀ b ∈ l, isTerminator b = false) :
    ∃ buf len, execAll (l.map .feed) s = .next { s with
      block := setOvf true (s.withLine buf len).block
      trace := s.trace ++ [.diag .bufferOverflow] } := by
  obtain ⟨held, b, lost, rfl, hheld⟩ :
      ∃ held b lost, l = held ++ b :: lost ∧ held.length = Config.lineCap :=
    ⟨l.take Config.lineCap, l[Config.lineCap], l.drop (Config.lineCap + 1), by simp,
      List.length_take_of_le hlong.le⟩
  obtain ⟨hdata, hb, hlost⟩ : (∀ b ∈ held, isTerminator b = false) ∧ isTerminator b = false ∧
      ∀ b ∈ lost, isTerminator b = false := by
    simpa only [List.forall_mem_append, List.forall_mem_cons] using hl
  have hzero : s.block.len.val = 0 := congrArg Fin.val hs.len_eq
  obtain ⟨buf, len, hrun, hlen, -⟩ := execAll_data hs.ovf_eq (by omega) hdata
  have hfull : (s.withLine buf len).block.len.val = Config.lineCap := hlen.trans (by omega)
  refine ⟨buf, len, ?_⟩
  rw [List.map_append, List.map_cons, execAll_append hrun,
    execAll_cons (exec_append_overflow (s := s.withLine buf len) (appends_feed hb) hs.ovf_eq
      hfull)]
  exact execAll_dropped rfl hlost

/-- Settles O19: the terminator finds `ovf` set, so it discards what is held. -/
theorem overlongLineIsRejectedWhole : Obligations.OverlongLineIsRejectedWhole := by
  intro s l e hlen hovf hlong hdata he
  have hend := endsLine_feed (isTerminator_iff.2 he)
  obtain ⟨buf, len, hrun⟩ := execAll_overlong ⟨hovf, hlen⟩ hlong
    fun b hb => isTerminator_eq_false_iff.2 (hdata b hb)
  rw [List.map_append, List.map_singleton, execAll_concat hrun, exec_complete_discard hend rfl]
  exact ⟨_, rfl, by simp [State.withLine, clearLine, setOvf, hlen, hovf]⟩

end Sys2Proof.Machine

/-! PROOF. The LineTokenizer: its structural checks, the loop that decodes and writes the five fields, and
the two commit policies (R141 to R149). -/

namespace Sys2Proof.Machine

/-! ### The structural checks -/

section Checks

variable {P : Params} {l : List Byte} (x : Regs)

/-- R141. -/
theorem tokenizeLine_of_short (h : l.length < P.minLineLen) :
    tokenizeLine P l x = (x, .tooShort) := by
  rw [tokenizeLine, if_pos h]

/-- R142. -/
theorem tokenizeLine_of_leading_tab (hlen : P.minLineLen ≤ l.length)
    (htab : l.head? = some Config.sepTab) : tokenizeLine P l x = (x, .tooShort) := by
  rw [tokenizeLine, if_neg (Nat.not_lt.2 hlen), if_pos ((head?_tabIndices l).2 htab)]

/-- R143. -/
theorem tokenizeLine_of_tab_count (hlen : P.minLineLen ≤ l.length)
    (hhead : l.head? ≠ some Config.sepTab) (hcount : l.count Config.sepTab ≠ Config.nTabs) :
    tokenizeLine P l x = (x, .fieldCountMismatch) := by
  rw [← length_tabIndices] at hcount
  rw [tokenizeLine, if_neg (Nat.not_lt.2 hlen), if_neg (mt (head?_tabIndices l).1 hhead),
    if_pos hcount]

end Checks

/-- The TOKENIZE row writes the registers and hands the result back, and changes nothing else (R140,
log 12). -/
theorem exec_tokenize {s : State} {x : Regs} {r : TokenizeResult}
    (h : tokenizeLine Config.hw (lineBytes s.block) s.block.x = (x, r)) :
    exec .tokenize s =
      .next (State.returned { s with block := { s.block with x := x } } (.tokenized r)) := by
  have hexec : exec .tokenize s = execTokenize s := rfl
  simp [hexec, execTokenize, h, State.commit]

/-- Settles O20, by one equation of TOKENIZE for each check. -/
theorem structuralChecksInOrder : Obligations.StructuralChecksInOrder :=
  fun s => ⟨fun hshort => exec_tokenize (tokenizeLine_of_short s.block.x hshort),
    fun hlen htab => exec_tokenize (tokenizeLine_of_leading_tab s.block.x hlen htab),
    fun hlen hhead hcount => exec_tokenize (tokenizeLine_of_tab_count s.block.x hlen hhead hcount)⟩

/-! ### The loop over the fields -/

/-- Registers `ks` written one after another, each with its value. -/
def Regs.setAll (v : Field → FieldWord) : List Field → Regs → Regs
  | [], x => x
  | k :: ks, x => Regs.setAll v ks (x.set k (v k))

/-- The registers written hold their values, every other its own (R14). -/
theorem get_setAll (v : Field → FieldWord) (ks : List Field) (x : Regs) (j : Field) :
    (Regs.setAll v ks x).get j = if j ∈ ks then v j else x.get j := by
  induction ks generalizing x with
  | nil => rfl
  | cons k ks ih =>
    rw [Regs.setAll, ih]
    by_cases hjk : j = k
    · subst hjk; simp
    · simp [hjk, get_set_other x (v k) hjk]

/-- With all five written, nothing of the registers before is left (R149). -/
theorem setAll_fieldOrder (v : Field → FieldWord) (x y : Regs) :
    Regs.setAll v fieldOrder x = Regs.setAll v fieldOrder y := rfl

theorem mem_fieldOrder (k : Field) : k ∈ fieldOrder := by cases k <;> decide

/-- The loop writes the fields that decode and goes on with the rest (R145). -/
theorem decodeFields_of_values {P : Params} {tok : Field → List Byte} {v : Field → FieldWord}
    {ks : List Field} (h : ∀ k ∈ ks, decodeToken P (tok k) = .value (v k))
    (rest : List (Field × List Byte)) (x : Regs) :
    decodeFields P (ks.map (fun k => (k, tok k)) ++ rest) x =
      decodeFields P rest (Regs.setAll v ks x) := by
  induction ks generalizing x with
  | nil => rfl
  | cons k ks ih =>
    obtain ⟨hk, hks⟩ := List.forall_mem_cons.1 h
    rw [List.map_cons, List.cons_append, decodeFields_value hk, ih hks]
    rfl

/-- The fields before `k`, `k`, and those after it. -/
theorem fieldOrder_split (k : Field) :
    fieldOrder = fieldOrder.take (fieldIndex k) ++ k :: fieldOrder.drop (fieldIndex k + 1) := by
  cases k <;> rfl

theorem mem_take_fieldOrder_iff {j k : Field} :
    j ∈ fieldOrder.take (fieldIndex k) ↔ fieldIndex j < fieldIndex k := by
  cases j <;> cases k <;> decide

/-- Over fields in order, the loop ends Ok, or at a failing field from which on no register is written
(R145, R146). -/
theorem decodeFields_ok_or_failure (P : Params) {fs : List (Field × List Byte)}
    (hfs : (fs.map Prod.fst).Pairwise (fieldIndex · < fieldIndex ·)) (x : Regs) :
    (decodeFields P fs x).2 = .ok ∨
    ∃ k e, k ∈ fs.map Prod.fst ∧ (decodeFields P fs x).2 = .decodeFailure k e ∧
      ∀ j, fieldIndex k ≤ fieldIndex j → (decodeFields P fs x).1.get j = x.get j := by
  induction fs generalizing x with
  | nil => exact .inl rfl
  | cons kt rest ih =>
    obtain ⟨k, t⟩ := kt
    obtain ⟨hfirst, hrest⟩ := List.pairwise_cons.1 hfs
    cases hd : decodeToken P t with
    | error e =>
      rw [decodeFields_error hd]
      exact .inr ⟨k, e, List.mem_cons_self, rfl, fun _ _ => rfl⟩
    | value v =>
      rw [decodeFields_value hd]
      refine (ih hrest (x.set k v)).imp_right ?_
      rintro ⟨k', e, hmem, hfail, hkeep⟩
      refine ⟨k', e, List.mem_cons_of_mem k hmem, hfail, fun j hj => ?_⟩
      have hjk : j ≠ k := by
        rintro rfl
        exact Nat.not_lt.2 hj (hfirst k' hmem)
      rw [hkeep j hj, get_set_other x v hjk]

/-! ### A line that passes the checks -/

/-- Field `k` of a line (R86). -/
def fieldToken (l : List Byte) (k : Field) : List Byte := (fieldTokens l).getD (fieldIndex k) []

theorem fieldOrder_zip {ts : List (List Byte)} (h : ts.length = Config.nFields) :
    fieldOrder.zip ts = fieldOrder.map fun k => (k, ts.getD (fieldIndex k) []) :=
  match ts, h with
  | [_, _, _, _, _], _ => rfl

section Passed

variable {P : Params} {l : List Byte} (hlen : P.minLineLen ≤ l.length)
  (hhead : l.head? ≠ some Config.sepTab) (hcount : l.count Config.sepTab = Config.nTabs)

include hcount in
theorem length_fieldTokens_of_count : (fieldTokens l).length = Config.nFields := by
  rw [length_fieldTokens, hcount]

include hcount in
theorem fieldToken_mem (k : Field) : fieldToken l k ∈ fieldTokens l := by
  have hk : fieldIndex k < (fieldTokens l).length := by
    rw [length_fieldTokens_of_count hcount]; cases k <;> decide
  rw [fieldToken, List.getD_eq_getElem _ _ hk]
  exact List.getElem_mem hk

include hlen hhead hcount

/-- TOKENIZE past its checks: the loop over the five fields, under the commit policy (R144 to R148). -/
theorem tokenizeLine_of_checks (x : Regs) :
    tokenizeLine P l x = commitRegs P.commitPolicy x
      (decodeFields P (fieldOrder.map fun k => (k, fieldToken l k)) x) := by
  have hzip := fieldOrder_zip (length_fieldTokens_of_count hcount)
  rw [← length_tabIndices] at hcount
  rw [tokenizeLine, if_neg (Nat.not_lt.2 hlen), if_neg (mt (head?_tabIndices l).1 hhead),
    if_neg (not_not_intro hcount), hzip]
  rfl

/-- All five fields decode: either policy commits them (R148, R149). -/
theorem tokenizeLine_of_values {v : Field → FieldWord}
    (hv : ∀ k, decodeToken P (fieldToken l k) = .value (v k)) (x : Regs) :
    tokenizeLine P l x = (Regs.setAll v fieldOrder x, .ok) := by
  have hloop := decodeFields_of_values (ks := fieldOrder) (fun k _ => hv k) [] x
  rw [List.append_nil, decodeFields_nil] at hloop
  rw [tokenizeLine_of_checks hlen hhead hcount, hloop]
  cases P.commitPolicy <;> rfl

/-- Field `k` is the first to fail: PARTIAL keeps what was written before it (R145, R146). -/
theorem tokenizeLine_of_failure (hpolicy : P.commitPolicy = .partialWrite) {k : Field}
    {e : DecodeError} {v : Field → FieldWord} (he : decodeToken P (fieldToken l k) = .error e)
    (hv : ∀ j, fieldIndex j < fieldIndex k → decodeToken P (fieldToken l j) = .value (v j))
    (x : Regs) :
    tokenizeLine P l x =
      (Regs.setAll v (fieldOrder.take (fieldIndex k)) x, .decodeFailure k e) := by
  rw [tokenizeLine_of_checks hlen hhead hcount, hpolicy, fieldOrder_split k, List.map_append,
    decodeFields_of_values (fun j hj => hv j (mem_take_fieldOrder_iff.1 hj)), List.map_cons,
    decodeFields_error he, ← fieldOrder_split k]
  rfl

end Passed

/-- Settles O22: the loop writes the fields before the failing one, or all five. -/
theorem fieldsBeforeAFailureStayWritten : Obligations.FieldsBeforeAFailureStayWritten := by
  intro s l tok hlen hhead hcount
  refine ⟨fun k e v he hv => ?_, fun v hv => ?_⟩
  · refine ⟨_, exec_tokenize (tokenizeLine_of_failure hlen hhead hcount rfl he hv s.block.x),
      fun j hj => ?_, fun j hj => ?_, rfl⟩
    · exact (get_setAll v _ _ j).trans (if_pos (mem_take_fieldOrder_iff.2 hj))
    · exact (get_setAll v _ _ j).trans (if_neg (mt mem_take_fieldOrder_iff.1 (Nat.not_lt.2 hj)))
  · refine ⟨_, exec_tokenize (tokenizeLine_of_values hlen hhead hcount hv s.block.x),
      fun j => ?_, rfl⟩
    exact (get_setAll v _ _ j).trans (if_pos (mem_fieldOrder j))

/-! ### The registers after an Ok line -/

/-- A line accepted once is accepted from any registers, and leaves the same ones (R149). -/
theorem tokenizeLine_ok_const {P : Params} {l : List Byte} {x : Regs}
    (h : (tokenizeLine P l x).2 = .ok) : ∃ r, ∀ y, tokenizeLine P l y = (r, .ok) := by
  obtain ⟨hlen, hcount, hhead, hfields⟩ := (tokenizeLine_ok_iff P l x).1 h
  choose v hv using fun k => hfields (fieldToken l k) (fieldToken_mem hcount k)
  refine ⟨Regs.setAll v fieldOrder x, fun y => ?_⟩
  rw [tokenizeLine_of_values hlen hhead hcount hv, setAll_fieldOrder v y x]

/-- Settles O24: the registers an Ok line leaves are named before the registers it finds. -/
theorem okLineDecidesAllRegisters : Obligations.OkLineDecidesAllRegisters := by
  intro P l x y hok
  obtain ⟨r, hr⟩ := tokenizeLine_ok_const hok
  exact ⟨(hr y).trans (hr x).symm, (hr _).trans (hr x).symm⟩

/-! ### The two commit policies -/

/-- DECODE takes no commit policy, so neither does the loop. -/
theorem decodeFields_commitPolicy (P : Params) (c : CommitPolicy)
    (fs : List (Field × List Byte)) (x : Regs) :
    decodeFields { P with commitPolicy := c } fs x = decodeFields P fs x := by
  induction fs generalizing x with
  | nil => rfl
  | cons kt rest ih =>
    have hdecode : decodeToken { P with commitPolicy := c } kt.2 = decodeToken P kt.2 := rfl
    cases hd : decodeToken P kt.2 with
    | error e => rw [decodeFields_error hd, decodeFields_error (hdecode.trans hd)]
    | value v => rw [decodeFields_value hd, decodeFields_value (hdecode.trans hd), ih]

/-- ATOMIC is PARTIAL with its registers committed only when the result is Ok (R148). -/
theorem tokenizeLine_atomic (P : Params) (l : List Byte) (x : Regs) :
    tokenizeLine { P with commitPolicy := .atomic } l x =
      commitRegs .atomic x (tokenizeLine { P with commitPolicy := .partialWrite } l x) := by
  unfold tokenizeLine
  simp only [decodeFields_commitPolicy]
  split_ifs <;> rfl

theorem commitRegs_atomic_ok {x : Regs} {r : Regs × TokenizeResult} (h : r.2 = .ok) :
    commitRegs .atomic x r = r := if_pos h

theorem commitRegs_atomic_not_ok {x : Regs} {r : Regs × TokenizeResult} (h : r.2 ≠ .ok) :
    commitRegs .atomic x r = (x, r.2) := if_neg h

/-- PARTIAL writes nothing, accepts the line, or stops at a failing field from which on it writes
nothing (R141 to R149). -/
theorem tokenizeLine_partial_cases {P : Params} (hpolicy : P.commitPolicy = .partialWrite)
    (l : List Byte) (x : Regs) :
    (tokenizeLine P l x).1 = x ∨ (tokenizeLine P l x).2 = .ok ∨
    ∃ k e, (tokenizeLine P l x).2 = .decodeFailure k e ∧
      ∀ j, fieldIndex k ≤ fieldIndex j → (tokenizeLine P l x).1.get j = x.get j := by
  obtain ⟨-, h⟩ | ⟨-, -, h⟩ | ⟨-, -, -, h⟩ | ⟨-, -, hcount, h⟩ := tokenizeLine_cases P l x
  · rw [h]; exact .inl rfl
  · rw [h]; exact .inl rfl
  · rw [h]; exact .inl rfl
  · rw [length_tabIndices] at hcount
    have hkeys : (fieldOrder.zip (fieldTokens l)).map Prod.fst = fieldOrder :=
      List.map_fst_zip (length_fieldTokens_of_count hcount).ge
    have hsorted : ((fieldOrder.zip (fieldTokens l)).map Prod.fst).Pairwise
        (fieldIndex · < fieldIndex ·) := by rw [hkeys]; decide
    rw [h, hpolicy]
    refine .inr ((decodeFields_ok_or_failure P hsorted x).imp_right ?_)
    rintro ⟨k, e, -, hfail, hkeep⟩
    exact ⟨k, e, hfail, hkeep⟩

/-- Settles O23: ATOMIC commits what PARTIAL wrote when the result is Ok, else nothing. -/
theorem atomicPolicyDiffersOnlyAfterAFailure :
    Obligations.AtomicPolicyDiffersOnlyAfterAFailure := by
  intro P l x part atom
  have hatom : atom = commitRegs .atomic x part := tokenizeLine_atomic P l x
  have hresult : atom.2 = part.2 := by rw [hatom, commitRegs_result]
  have hkeep : atom.2 ≠ .ok → atom.1 = x := fun hne => by
    rw [hatom, commitRegs_atomic_not_ok (hresult ▸ hne)]
  have hpart := tokenizeLine_partial_cases
    (P := { P with commitPolicy := .partialWrite }) rfl l x
  refine ⟨hresult, fun hnofail => ?_, hkeep, fun k e hfail j hj => ?_⟩
  · by_cases hok : part.2 = .ok
    · rw [hatom, commitRegs_atomic_ok hok]
    · obtain hsame | hok' | ⟨k, e, hfail, -⟩ := hpart
      · exact (hkeep (hresult ▸ hok)).trans hsame.symm
      · exact absurd hok' hok
      · exact absurd hfail (hnofail k e)
  · obtain hsame | hok | ⟨k', e', hfail', hkept⟩ := hpart
    · exact congrArg (Regs.get · j) hsame
    · cases hok.symm.trans hfail
    · cases hfail'.symm.trans hfail
      exact hkept j hj

end Sys2Proof.Machine

/-! PROOF. NORM3, SCAN and DECODE of decimal digits: the bytes NORM3 keeps, the value SCAN reads from
digits and where it stops, and the milli-scaled value of a well-formed token (R167 to R169, R178). -/

namespace Sys2Proof.Machine

/-! ### NORM3 -/

/-- The bytes kept are the first `n`, and '0' for each one missing (R167). -/
theorem paddedTo_eq_take (n : Nat) (fp : List Byte) :
    paddedTo n fp = fp.take n ++ List.replicate (n - fp.length) Config.ch0 := by
  induction n generalizing fp with
  | zero => simp [paddedTo]
  | succ n ih =>
    cases fp with
    | nil => simp [paddedTo_succ_nil, ih, List.replicate_succ]
    | cons c fp => simp [paddedTo_succ_cons, ih]

theorem norm3_hw (fp : List Byte) :
    norm3 Config.hw fp = fp.take 3 ++ List.replicate (3 - fp.length) Config.ch0 := by
  rw [norm3_eq_paddedTo, paddedTo_eq_take]
  rfl

/-- The row hands back what NORM3 gives and changes nothing else (R160, log 12). -/
theorem exec_norm3 (fp : List Byte) (s : State) :
    exec (.norm3 fp) s = .next (s.returned (.bytes (norm3 Config.hw fp))) := rfl

/-- Settles O30: three zeros suffice to pad any fraction before it is cut. -/
theorem norm3PadsOrCutsToThree : Obligations.Norm3PadsOrCutsToThree := by
  intro s fp
  have hzeros : [0x30, 0x30, 0x30] = List.replicate 3 Config.ch0 := rfl
  rw [exec_norm3, norm3_hw, hzeros, List.take_append, List.take_replicate,
    Nat.min_eq_left (Nat.sub_le _ _)]

/-! ### Digits and their value -/

/-- The byte of a decimal digit (R84, R85). -/
def digitByte (d : Fin 10) : Byte := BitVec.ofNat 8 (0x30 + d.val)

theorem isDigit_digitByte (d : Fin 10) : isDigit (digitByte d) = true := by
  revert d; decide

theorem digitVal_digitByte (d : Fin 10) : digitVal (digitByte d) = d.val := by
  revert d; decide

theorem digitByte_zero : digitByte 0 = Config.ch0 := rfl

/-- The decimal value of digits read left to right. -/
def digitsValue (ds : List (Fin 10)) : Nat := ds.foldl (fun acc d => acc * 10 + d.val) 0

/-- The same value accumulated in the integers. -/
theorem digitsValue_cast (ds : List (Fin 10)) :
    (digitsValue ds : Int) = ds.foldl (fun acc d => acc * 10 + (d.val : Int)) 0 :=
  (List.foldl_hom (Nat.cast : Nat → Int) fun acc d => by push_cast; rfl).symm

theorem chPoint_notMem_digits (ds : List (Fin 10)) : Config.chPoint ∉ ds.map digitByte := by
  intro h
  obtain ⟨d, -, hd⟩ := List.mem_map.1 h
  have hdigit : isDigit Config.chPoint = true := hd ▸ isDigit_digitByte d
  exact absurd hdigit (by decide)

theorem hasSign_digits (ds : List (Fin 10)) : hasSign (ds.map digitByte) = false := by
  cases ds with
  | nil => rfl
  | cons d ds => exact (class_of_digit (isDigit_digitByte d)).2

/-! ### SCAN -/

/-- The bytes outside '0' .. '9' are no digits (R84). -/
theorem isDigit_eq_false_iff {c : Byte} : isDigit c = false ↔ c < 0x30 ∨ 0x39 < c := by
  simp [isDigit, ← BitVec.not_le, imp_iff_not_or]

/-- SCAN's loop stops before a byte that is no digit, and at the end (R168). -/
theorem scanDigits_of_head {rest : List Byte} (h : ∀ c, rest.head? = some c → isDigit c = false)
    (acc : Nat) : scanDigits acc rest = acc := by
  cases rest with
  | nil => rfl
  | cons c rest => exact scanDigits_stop (h c rfl) acc rest

/-- SCAN's loop accumulates digits as their decimal value does (R168). -/
theorem scanDigits_digits_append (acc : Nat) (ds : List (Fin 10)) (rest : List Byte) :
    scanDigits acc (ds.map digitByte ++ rest) =
      scanDigits (ds.foldl (fun acc d => acc * 10 + d.val) acc) rest := by
  induction ds generalizing acc with
  | nil => rfl
  | cons d ds ih =>
    rw [List.map_cons, List.cons_append, scanDigits_digit (isDigit_digitByte d),
      digitVal_digitByte, ih, List.foldl_cons]

/-- SCAN's loop reads the value of the digits before a byte that is none, or the end (R168). -/
theorem scanDigits_leading_digits (ds : List (Fin 10)) {rest : List Byte}
    (h : ∀ c, rest.head? = some c → isDigit c = false) :
    scanDigits 0 (ds.map digitByte ++ rest) = digitsValue ds := by
  rw [scanDigits_digits_append, scanDigits_of_head h, digitsValue]

theorem scanDigits_digits (ds : List (Fin 10)) :
    scanDigits 0 (ds.map digitByte) = digitsValue ds := by
  simpa using scanDigits_leading_digits ds (rest := []) (by simp)

theorem scan_false (s : List Byte) : scan false s = scanDigits 0 s := rfl

theorem scan_true_of_sign {c : Byte} (h : isSign c = true) (s : List Byte) :
    scan true (c :: s) = scanDigits 0 s := by
  simp [scan, hasSign, h]

theorem scan_true_of_no_sign {s : List Byte} (h : hasSign s = false) :
    scan true s = scanDigits 0 s := by
  simp [scan, h]

/-- A sign is no digit (R84). -/
theorem isDigit_of_isSign {c : Byte} (h : isSign c = true) : isDigit c = false :=
  Bool.eq_false_iff.2 fun hdigit => absurd h (by simp [(class_of_digit hdigit).2])

/-- The row hands back what SCAN gives and changes nothing else (R160, log 12). -/
theorem exec_scan (signAllowed : Bool) (str : List Byte) (s : State) :
    exec (.scan signAllowed str) s = .next (s.returned (.magnitude (scan signAllowed str))) := rfl

/-- Settles O31: a sign is skipped or stops the loop, and the loop reads the digits. -/
theorem scanReadsTheLeadingDigits : Obligations.ScanReadsTheLeadingDigits := by
  intro s ds rest sign char int hrest hsign
  have hstop : ∀ c, rest.head? = some c → isDigit c = false := fun c hc =>
    isDigit_eq_false_iff.2 (hrest c hc)
  have hread : scanDigits 0 (ds.map char ++ rest) = int ds := scanDigits_leading_digits ds hstop
  have hclass : isSign sign = true := by obtain rfl | rfl := hsign <;> rfl
  simp only [exec_scan, scan_false, scan_true_of_sign hclass, hread,
    scanDigits_stop (isDigit_of_isSign hclass), true_and, and_true]
  intro hfirst
  have hnosign : hasSign (ds.map char ++ rest) = false := by
    by_cases hds : ds = []
    · obtain ⟨hplus, hminus⟩ := hfirst.resolve_left (absurd hds)
      rw [hds, List.map_nil, List.nil_append, Bool.eq_false_iff, Ne, hasSign_iff]
      exact not_or.2 ⟨hplus, hminus⟩
    · have hne : ds.map char ≠ [] := fun hnil => hds (List.map_eq_nil_iff.1 hnil)
      exact (hasSign_append hne rest).trans (hasSign_digits ds)
  rw [scan_true_of_no_sign hnosign, hread]

/-! ### DECODE of a well-formed token -/

/-- The optional sign of a token: none, '-' or '+' (R178). -/
def signBytes : Option Bool → List Byte
  | none => []
  | some true => [Config.chMinus]
  | some false => [Config.chPlus]

/-- The three digits of a fraction: padded with zeros, or cut (R178). -/
def threeDigits (fs : List (Fin 10)) : List (Fin 10) :=
  if fs.length < 3 then fs ++ List.replicate (3 - fs.length) 0 else fs.take 3

/-- NORM3 of digits are the bytes of their three digits (R167). -/
theorem norm3_digits (fs : List (Fin 10)) :
    norm3 Config.hw (fs.map digitByte) = (threeDigits fs).map digitByte := by
  rw [norm3_hw, List.length_map, threeDigits]
  split
  · next h =>
    rw [List.take_of_length_le (by simpa using h.le), List.map_append, List.map_replicate,
      digitByte_zero]
  · next h => rw [Nat.sub_eq_zero_of_le (Nat.not_lt.1 h), List.replicate_zero, List.append_nil,
      List.map_take]

section Signed

variable (sg : Option Bool) (ds : List (Fin 10))

theorem chPoint_notMem_signed :
    Config.chPoint ∉ signBytes sg ++ ds.map digitByte := by
  have hsign : Config.chPoint ∉ signBytes sg := by revert sg; decide
  exact fun h => (List.mem_append.1 h).elim hsign (chPoint_notMem_digits ds)

/-- SCAN skips the sign and reads the digits (R168). -/
theorem scan_signed : scan true (signBytes sg ++ ds.map digitByte) = digitsValue ds := by
  match sg with
  | none => exact (scan_true_of_no_sign (hasSign_digits ds)).trans (scanDigits_digits ds)
  | some true => exact (scan_true_of_sign rfl _).trans (scanDigits_digits ds)
  | some false => exact (scan_true_of_sign rfl _).trans (scanDigits_digits ds)

/-- The sign is not counted among the integer part's characters (R166). -/
theorem length_signed_sub_signLength :
    (signBytes sg ++ ds.map digitByte).length - signLength (signBytes sg ++ ds.map digitByte) =
      ds.length := by
  match sg with
  | none => simp [signBytes, signLength, hasSign_digits]
  | some true => simp [signBytes, signLength, hasSign, isSign]
  | some false => simp [signBytes, signLength, hasSign, isSign]

/-- The token is negative when its sign is '-' (R165). -/
theorem isNegative_signed :
    isNegative (signBytes sg ++ ds.map digitByte) = true ↔ sg = some true := by
  have hpos : (ds.map digitByte).head? ≠ some Config.chMinus := fun hc =>
    Bool.eq_false_iff.1 (hasSign_digits ds) (hasSign_iff.2 (.inr hc))
  rw [isNegative_iff]
  match sg with
  | none => simpa [signBytes] using hpos
  | some true => simp [signBytes]
  | some false => simp [signBytes]

end Signed

/-- Settles O26: R171's value, with SCAN of the signed integer part and of the fraction's three
digits. -/
theorem wellFormedTokenDecodesToItsMilliValue :
    Obligations.WellFormedTokenDecodesToItsMilliValue := by
  intro sg ds fs hne hlen char int sign f3
  have hsign : sign = signBytes sg := by obtain _ | _ | _ := sg <;> rfl
  have hint : ∀ l, int l = (digitsValue l : Int) := fun l => (digitsValue_cast l).symm
  have hip : sign ++ ds.map char = signBytes sg ++ ds.map digitByte := by rw [hsign]; rfl
  have hipne : signBytes sg ++ ds.map digitByte ≠ [] := by simp [hne]
  have hfrac : scan false (norm3 Config.hw (fs.map digitByte)) = digitsValue f3 := by
    rw [norm3_digits, scan_false, scanDigits_digits]
    rfl
  calc decodeToken Config.hw (sign ++ ds.map char ++ 0x2E :: fs.map char)
      = .value (signedMilli (isNegative (signBytes sg ++ ds.map digitByte))
          (scan true (signBytes sg ++ ds.map digitByte) * 1000 +
            scan false (norm3 Config.hw (fs.map digitByte)))) := by
        rw [hip]
        exact decodeToken_of_decimal Config.hw (chPoint_notMem_signed sg ds) hipne _
          ((length_signed_sub_signLength sg ds).trans_le hlen)
    _ = .value (BitVec.ofInt 32
          ((if sg = some true then -1 else 1) * (int ds * 1000 + int f3))) := by
        rw [scan_signed sg ds, hfrac, signedMilli_eq, hint, hint]
        simp only [isNegative_signed sg ds]
        push_cast
        rfl

end Sys2Proof.Machine

/-! PROOF. The register file: what WRITE_FIELD does to the state. -/

namespace Sys2Proof.Machine

/-- WRITE_FIELD hands nothing over, so the registers are all that it touches (R191). -/
theorem exec_writeField (k : Field) (v : FieldWord) (s : State) :
    exec (.writeField k v) s =
      .next { s with block := { s.block with x := s.block.x.set k v } } := by
  have hexec : exec (.writeField k v) s = .next (s.commit (writeField k v s.block, [])) := rfl
  simp [hexec, State.commit, writeField]

/-- Settles O34: the write is read back at its own register, and every other register is passed over. -/
theorem writeFieldWritesOneRegister : Obligations.WriteFieldWritesOneRegister := by
  intro k v s
  refine ⟨_, exec_writeField k v s, ?written, ?others, ?frame⟩
  case written => exact get_set_same s.block.x k v
  case others => exact fun j hj => get_set_other s.block.x v hj
  case frame => rfl

end Sys2Proof.Machine

/-! PROOF. The TransmitScheduler: what each case of a POLL does, that it reads nothing but the elapsed
ticks and `energySent`, the cadence of a POLL after every TICK, and what the scheduler shares with the
line path (R201 to R214). -/

namespace Sys2Proof.Machine

/-! ### SCHED.FULL and SCHED.ENERGY -/

/-- Settles O35: the row is the send, the record and the two writes of R203. -/
theorem schedFullSendsFrameAAndMovesTheBaseline :
    Obligations.SchedFullSendsFrameAAndMovesTheBaseline :=
  fun _ _ => rfl

/-- Settles O36: the row is the send, the record and the write of R204. -/
theorem schedEnergySendsFrameBOnce : Obligations.SchedEnergySendsFrameBOnce :=
  fun _ _ => rfl

/-! ### The cases of a POLL (R202) -/

/-- The ticks since the last full frame, modulo 2^32 (R201). -/
def Block.elapsedTicks (m : Block) : Nat := (elapsed m.tick m).toNat

/-- The elapsed ticks, in naturals. -/
theorem elapsedTicks_eq (m : Block) :
    m.elapsedTicks = (m.tick.toNat + 2 ^ 32 - m.base.toNat) % 2 ^ 32 := by
  have hbase : m.base.toNat < 2 ^ 32 := m.base.isLt
  calc m.elapsedTicks
      = (2 ^ 32 - m.base.toNat + m.tick.toNat) % 2 ^ 32 := BitVec.toNat_sub m.tick m.base
    _ = (m.tick.toNat + 2 ^ 32 - m.base.toNat) % 2 ^ 32 := by congr 1; omega

section Cases

variable {s : State}

theorem exec_poll (ok : Bool) (s : State) :
    exec (.poll ok) s = .next (s.commit (pollBlock Config.hw ok s.block)) := rfl

/-- The three cases of `pollBlock_cases` with the periods of this hardware, as the rows they run. -/
theorem exec_poll_cases (ok : Bool) (s : State) :
    (1000 ≤ s.block.elapsedTicks ∧ exec (.poll ok) s = exec (.schedFull ok) s) ∨
    (s.block.elapsedTicks < 1000 ∧ 500 ≤ s.block.elapsedTicks ∧ s.block.energySent = false ∧
      exec (.poll ok) s = exec (.schedEnergy ok) s) ∨
    (s.block.elapsedTicks < 1000 ∧
      (s.block.elapsedTicks < 500 ∨ s.block.energySent = true) ∧ exec (.poll ok) s = .next s) := by
  rw [exec_poll]
  obtain ⟨hfull, he⟩ | ⟨hfull, henergy, hsent, he⟩ | ⟨hfull, hidle, he⟩ :=
    pollBlock_cases Config.hw ok s.block
  · exact .inl ⟨hfull, by rw [he]; rfl⟩
  · exact .inr (.inl ⟨hfull, henergy, hsent, by rw [he]; rfl⟩)
  · exact .inr (.inr ⟨hfull, hidle, by rw [he, commit_unchanged]⟩)

/-- A full frame is due (R203). -/
theorem exec_poll_full (h : 1000 ≤ s.block.elapsedTicks) (ok : Bool) :
    exec (.poll ok) s = exec (.schedFull ok) s := by
  obtain ⟨-, he⟩ | ⟨hlt, -⟩ | ⟨hlt, -⟩ := exec_poll_cases ok s
  · exact he
  · omega
  · omega

/-- An energy frame is due (R204). -/
theorem exec_poll_energy (hlt : s.block.elapsedTicks < 1000) (hle : 500 ≤ s.block.elapsedTicks)
    (hsent : s.block.energySent = false) (ok : Bool) :
    exec (.poll ok) s = exec (.schedEnergy ok) s := by
  obtain ⟨hge, -⟩ | ⟨-, -, -, he⟩ | ⟨-, hearly | hdone, -⟩ := exec_poll_cases ok s
  · omega
  · exact he
  · omega
  · rw [hsent] at hdone; cases hdone

/-- No frame is due (R207). -/
theorem exec_poll_idle (hlt : s.block.elapsedTicks < 1000)
    (hidle : s.block.elapsedTicks < 500 ∨ s.block.energySent = true) (ok : Bool) :
    exec (.poll ok) s = .next s := by
  obtain ⟨hge, -⟩ | ⟨-, hle, hsent, -⟩ | ⟨-, -, he⟩ := exec_poll_cases ok s
  · omega
  · obtain hearly | hdone := hidle
    · omega
    · rw [hsent] at hdone; cases hdone
  · exact he

/-- Which case a POLL takes is the same whatever the status (R206). -/
theorem exec_poll_anyStatus (s : State) :
    (∀ ok, exec (.poll ok) s = exec (.schedFull ok) s) ∨
    (∀ ok, exec (.poll ok) s = exec (.schedEnergy ok) s) ∨
    (∀ ok, exec (.poll ok) s = .next s) := by
  obtain ⟨hge, -⟩ | ⟨hlt, hle, hsent, -⟩ | ⟨hlt, hidle, -⟩ := exec_poll_cases false s
  · exact .inl (exec_poll_full hge)
  · exact .inr (.inl (exec_poll_energy hlt hle hsent))
  · exact .inr (.inr (exec_poll_idle hlt hidle))

end Cases

/-- What a POLL decides on is the same in both blocks: the elapsed ticks and `energySent` (R202). -/
structure SameDecision (m m' : Block) : Prop where
  elapsed_eq : m'.elapsedTicks = m.elapsedTicks
  energySent_eq : m'.energySent = m.energySent

/-- From states with the same decision a POLL runs the same case (R202). -/
theorem exec_poll_sameDecision {s s' : State} (h : SameDecision s.block s'.block) (ok : Bool) :
    (exec (.poll ok) s = exec (.schedFull ok) s ∧
      exec (.poll ok) s' = exec (.schedFull ok) s') ∨
    (exec (.poll ok) s = exec (.schedEnergy ok) s ∧
      exec (.poll ok) s' = exec (.schedEnergy ok) s') ∨
    (exec (.poll ok) s = .next s ∧ exec (.poll ok) s' = .next s') := by
  obtain ⟨helapsed, hflag⟩ := h
  obtain ⟨hge, he⟩ | ⟨hlt, hle, hsent, he⟩ | ⟨hlt, hidle, he⟩ := exec_poll_cases ok s
  · exact .inl ⟨he, exec_poll_full (by rwa [helapsed]) ok⟩
  · exact .inr (.inl ⟨he, exec_poll_energy (by rwa [helapsed]) (by rwa [helapsed])
      (by rwa [hflag]) ok⟩)
  · exact .inr (.inr ⟨he, exec_poll_idle (by rwa [helapsed]) (by rwa [helapsed, hflag]) ok⟩)

/-- Settles O37: the three cases, with the elapsed ticks in naturals. -/
theorem pollTakesTheFirstDueCase : Obligations.PollTakesTheFirstDueCase := by
  intro ok s
  rw [← elapsedTicks_eq]
  refine ⟨fun hge => ?full, fun hlt hle hsent => ?energy, fun hidle => ?idle, ?schedIdle⟩
  case full =>
    rw [exec_poll_full hge]
    exact schedFullSendsFrameAAndMovesTheBaseline ok s
  case energy =>
    rw [exec_poll_energy hlt hle hsent]
    exact schedEnergySendsFrameBOnce ok s
  case idle => exact exec_poll_idle (by omega) (hidle.imp_right And.right) ok
  case schedIdle => exact congrArg Host.Outcome.next (commit_unchanged s)

/-! ### What a POLL reads (R201, R206) -/

/-- The block with `tick` and `base` moved by the same amount. -/
def Block.shift (m : Block) (d : BitVec 32) : Block :=
  { m with tick := m.tick + d, base := m.base + d }

/-- Only the difference of `tick` and `base` counts (R201). -/
theorem sameDecision_shift (m : Block) (d : BitVec 32) : SameDecision m (m.shift d) where
  elapsed_eq := congrArg BitVec.toNat (add_sub_add_right_eq_sub m.tick m.base d)
  energySent_eq := rfl

/-- Settles O38: the shifted state takes the same case, and each case commutes with the shift. -/
theorem pollSeesOnlyTheElapsedTicks : Obligations.PollSeesOnlyTheElapsedTicks := by
  intro ok s t d h
  change exec (.poll ok) { s with block := s.block.shift d } =
    .next { t with block := t.block.shift d }
  obtain ⟨he, he'⟩ | ⟨he, he'⟩ | ⟨he, he'⟩ := exec_poll_sameDecision
    (s := s) (s' := { s with block := s.block.shift d }) (sameDecision_shift s.block d) ok <;>
  · rw [he] at h
    cases h
    exact he'

/-- Settles O39: the case is the same for both statuses, and each case only reports its own. -/
theorem transmitStatusIsOnlyReported : Obligations.TransmitStatusIsOnlyReported := by
  intro s
  obtain he | he | he := exec_poll_anyStatus s
  · exact ⟨_, _, he true, he false, rfl, rfl, rfl, .inr ⟨_, .full, rfl, rfl⟩⟩
  · exact ⟨_, _, he true, he false, rfl, rfl, rfl, .inr ⟨_, .energy, rfl, rfl⟩⟩
  · exact ⟨s, s, he true, he false, rfl, rfl, rfl, .inl ⟨rfl, rfl⟩⟩

/-! ### A POLL after every TICK (R209) -/

/-- The state with its tick `n` after the baseline. -/
def State.atTick (s : State) (n : Nat) : State :=
  { s with block := { s.block with tick := s.block.base + BitVec.ofNat 32 n } }

@[simp] theorem atTick_energySent (s : State) (n : Nat) :
    (s.atTick n).block.energySent = s.block.energySent := rfl

/-- Within one turn of the counter the elapsed ticks are the ticks since the baseline, across the
wrap of `tick` too (R213). -/
theorem elapsedTicks_atTick (s : State) {n : Nat} (hn : n < 2 ^ 32) :
    (s.atTick n).block.elapsedTicks = n := by
  have hdiff : elapsed (s.atTick n).block.tick (s.atTick n).block = BitVec.ofNat 32 n :=
    add_sub_cancel_left s.block.base (BitVec.ofNat 32 n)
  rw [Block.elapsedTicks, hdiff, BitVec.toNat_ofNat, Nat.mod_eq_of_lt hn]

theorem atTick_zero {s : State} (h : s.block.tick = s.block.base) : s.atTick 0 = s := by
  have hzero : s.block.base + BitVec.ofNat 32 0 = s.block.tick := by rw [h]; exact add_zero _
  rw [State.atTick, hzero]

/-- TICK moves on by one (R221). -/
theorem exec_tick_atTick (s : State) (n : Nat) :
    exec .tick (s.atTick n) = .next (s.atTick (n + 1)) := by
  have hexec : exec .tick (s.atTick n) =
      .next ((s.atTick n).commit (tickBlock (s.atTick n).block, [])) := rfl
  rw [hexec]
  simp [State.commit, State.atTick, tickBlock, BitVec.ofNat_add, add_assoc]

/-- The state once SCHED.ENERGY has run (R204). -/
def State.afterEnergy (s : State) (ok : Bool) : State :=
  s.commit (schedEnergy Config.hw ok s.block)

/-- SCHED.ENERGY neither reads nor moves the tick (R204). -/
theorem exec_schedEnergy_atTick (s : State) (ok : Bool) (n : Nat) :
    exec (.schedEnergy ok) (s.atTick n) = .next ((s.afterEnergy ok).atTick n) := rfl

/-- The full frame sent after the energy frame, at tick `n` of the window (R203, R204). -/
theorem exec_schedFull_afterEnergy (s : State) (ok ok' : Bool) (n : Nat) :
    exec (.schedFull ok') ((s.afterEnergy ok).atTick n) = .next { s with
      block := { s.block with
        tick := s.block.base + BitVec.ofNat 32 n
        base := s.block.base + BitVec.ofNat 32 n
        energySent := false }
      trace := s.trace ++
        (send (energyFrame Config.hw s.block) ++ report (.txStatus .energy ok)) ++
        (send (fullFrame Config.hw s.block) ++ report (.txStatus .full ok')) } := rfl

/-- The last TICK and POLL of a run, with the status the list has for them. -/
theorem tickPolls_succ (n : Nat) (oks : List Bool) :
    tickPolls (n + 1) oks = tickPolls n oks ++ [.tick] ++ [.poll (oks.getD n false)] := by
  induction n generalizing oks with
  | zero => cases oks <;> rfl
  | succ n ih =>
    rw [tickPolls, ih, tickPolls]
    cases oks <;> rfl

section Cadence

variable {oks : List Bool} {s t : State} {n : Nat}

/-- One TICK and one POLL more. -/
theorem execAll_tickPolls_succ (h : execAll (tickPolls n oks) s = .next (t.atTick n)) :
    execAll (tickPolls (n + 1) oks) s =
      exec (.poll (oks.getD n false)) (t.atTick (n + 1)) := by
  rw [tickPolls_succ]
  exact execAll_concat ((execAll_concat h .tick).trans (exec_tick_atTick t n)) _

/-- One TICK and one POLL more, with no frame due. -/
theorem execAll_tickPolls_succ_idle (h : execAll (tickPolls n oks) s = .next (t.atTick n))
    (hlt : n + 1 < 1000) (hidle : n + 1 < 500 ∨ t.block.energySent = true) :
    execAll (tickPolls (n + 1) oks) s = .next (t.atTick (n + 1)) := by
  have helapsed := elapsedTicks_atTick t (n := n + 1) (by omega)
  rw [execAll_tickPolls_succ h]
  exact exec_poll_idle (by rwa [helapsed]) (by rwa [helapsed]) _

/-- Before +500 nothing is sent. -/
theorem execAll_tickPolls_early (hstart : s.block.tick = s.block.base) (hn : n < 500) :
    execAll (tickPolls n oks) s = .next (s.atTick n) := by
  induction n with
  | zero => rw [atTick_zero hstart]; rfl
  | succ n ih => exact execAll_tickPolls_succ_idle (ih (by omega)) (by omega) (.inl hn)

/-- At +500 the energy frame is sent, and from there to +999 nothing more. -/
theorem execAll_tickPolls_late (hstart : s.block.tick = s.block.base)
    (hsent : s.block.energySent = false) (hle : 500 ≤ n) (hn : n < 1000) :
    execAll (tickPolls n oks) s = .next ((s.afterEnergy (oks.getD 499 false)).atTick n) := by
  induction n, hle using Nat.le_induction with
  | base =>
    have helapsed : (s.atTick 500).block.elapsedTicks = 500 := elapsedTicks_atTick s (by omega)
    rw [execAll_tickPolls_succ (execAll_tickPolls_early hstart (by omega)),
      exec_poll_energy (s := s.atTick 500) (by omega) (by omega) (by simpa using hsent),
      exec_schedEnergy_atTick]
  | succ n hle ih => exact execAll_tickPolls_succ_idle (ih (by omega)) hn (.inr rfl)

/-- At +1000 the full frame is sent. -/
theorem execAll_tickPolls_window (hstart : s.block.tick = s.block.base)
    (hsent : s.block.energySent = false) :
    execAll (tickPolls 1000 oks) s = exec (.schedFull (oks.getD 999 false))
      ((s.afterEnergy (oks.getD 499 false)).atTick 1000) := by
  rw [execAll_tickPolls_succ (execAll_tickPolls_late hstart hsent (by omega) (by omega)),
    exec_poll_full (elapsedTicks_atTick _ (by omega)).ge]

end Cadence

/-- Settles O40, from the three stretches of the window. -/
theorem eachFrameOncePerThousandTicks : Obligations.EachFrameOncePerThousandTicks := by
  intro s oks hstart hsent
  refine ⟨fun n hn => execAll_tickPolls_early hstart hn,
    fun n hle hn => execAll_tickPolls_late hstart hsent hle hn, ?_⟩
  rw [execAll_tickPolls_window hstart hsent, exec_schedFull_afterEnergy]
  simp only [hsent]
  rfl

/-! ### The scheduler and the line path (R214) -/

/-- FEED writes nothing of the scheduler's. -/
theorem exec_feed_schedule {b : Byte} {s t : State} (h : exec (.feed b) s = .next t) :
    t.block.tick = s.block.tick ∧ t.block.base = s.block.base ∧
      t.block.energySent = s.block.energySent := by
  have hstep := exec_blockStep h
  exact ⟨by_contra fun hne => by simpa using tick_writer hstep hne,
    by_contra fun hne => by simpa using base_writer hstep hne,
    by_contra fun hne => by simpa using energySent_writer hstep hne⟩

/-- TICK and POLL write nothing of the line path's. -/
theorem exec_schedule_line {i : Instr} {s t : State} (hi : i = .tick ∨ ∃ ok, i = .poll ok)
    (h : exec i s = .next t) :
    t.block.buf = s.block.buf ∧ t.block.len = s.block.len ∧ t.block.ovf = s.block.ovf ∧
      t.block.x = s.block.x := by
  obtain rfl | ⟨ok, rfl⟩ := hi
  · cases h
    exact ⟨rfl, rfl, rfl, rfl⟩
  · obtain he | he | he := exec_poll_anyStatus s <;>
    · rw [he ok] at h
      cases h
      exact ⟨rfl, rfl, rfl, rfl⟩

/-- A POLL after a FEED decides as the POLL before it would have. -/
theorem sameDecision_feed {b : Byte} {s t : State} (h : exec (.feed b) s = .next t) :
    SameDecision s.block t.block := by
  obtain ⟨htick, hbase, hsent⟩ := exec_feed_schedule h
  exact ⟨by rw [elapsedTicks_eq, elapsedTicks_eq, htick, hbase], hsent⟩

/-- Settles O46: what each event leaves alone, and one case for the POLLs before and after a FEED. -/
theorem schedulerAndLinePathShareOnlyRegisters :
    Obligations.SchedulerAndLinePathShareOnlyRegisters := by
  intro s t
  refine ⟨fun b => exec_feed_schedule, fun i hi h => ?line, fun b ok u v hfeed hu hv => ?polls⟩
  case line =>
    obtain ⟨hbuf, hlen, hovf, hx⟩ := exec_schedule_line hi h
    exact ⟨hbuf, hlen, hovf, fun k => by rw [hx]⟩
  case polls =>
    obtain ⟨htick, hbase, hsent⟩ := exec_feed_schedule hfeed
    obtain ⟨he, he'⟩ | ⟨he, he'⟩ | ⟨he, he'⟩ :=
      exec_poll_sameDecision (sameDecision_feed hfeed) ok
    · rw [he, schedFullSendsFrameAAndMovesTheBaseline] at hu
      rw [he', schedFullSendsFrameAAndMovesTheBaseline] at hv
      cases hu; cases hv
      refine ⟨?_, htick, rfl⟩
      rw [List.drop_left, List.drop_left]
      rfl
    · rw [he, schedEnergySendsFrameBOnce] at hu
      rw [he', schedEnergySendsFrameBOnce] at hv
      cases hu; cases hv
      refine ⟨?_, hbase, rfl⟩
      rw [List.drop_left, List.drop_left]
      rfl
    · rw [he] at hu
      rw [he'] at hv
      cases hu; cases hv
      refine ⟨?_, hbase, hsent⟩
      rw [List.drop_length, List.drop_length]

end Sys2Proof.Machine

/-! PROOF. The events: what an instruction can hand over, that the hardware's inputs stay the hardware's,
and TICK (R221, R225, R226, R253). -/

namespace Sys2Proof.Machine

/-! ### What an instruction can hand over -/

/-- Everything one instruction can hand over, one constructor for each way; that `exec` hands over
nothing else is `exec_handsOver`. -/
inductive HandsOver : List Output → Prop
  | nothing : HandsOver []
  | frame (f : Frame) : HandsOver (send f)
  | record (d : Diag) : HandsOver (report d)
  | frameAndRecord (f : Frame) (d : Diag) : HandsOver (send f ++ report d)

theorem reportResult_handsOver (r : TokenizeResult) : HandsOver (reportResult r) := by
  cases r with
  | ok => exact .nothing
  | tooShort => exact .record .tooShort
  | fieldCountMismatch => exact .record .fieldCountMismatch
  | decodeFailure k e => exact .record (.decodeFailure k e)

theorem completeLine_handsOver (P : Params) (m : Block) : HandsOver (completeLine P m).2 := by
  obtain ⟨-, he⟩ | ⟨-, he⟩ := completeLine_cases P m
  · rw [he]; exact .nothing
  · rw [he]; exact reportResult_handsOver _

theorem appendByte_handsOver (b : Byte) (m : Block) : HandsOver (appendByte b m).2 := by
  obtain ⟨-, he⟩ | ⟨-, hlen, he⟩ | ⟨-, -, he⟩ := appendByte_cases b m
  · rw [he]; exact .nothing
  · rw [he]; exact .nothing
  · rw [he]; exact .record .bufferOverflow

theorem feedByte_handsOver (P : Params) (b : Byte) (m : Block) : HandsOver (feedByte P b m).2 := by
  cases hb : isTerminator b with
  | true => rw [feedByte_terminator P hb]; exact completeLine_handsOver P m
  | false => rw [feedByte_data P hb]; exact appendByte_handsOver b m

theorem pollBlock_handsOver (P : Params) (ok : Bool) (m : Block) :
    HandsOver (pollBlock P ok m).2 := by
  obtain ⟨-, he⟩ | ⟨-, -, -, he⟩ | ⟨-, -, he⟩ := pollBlock_cases P ok m
  · rw [he]; exact .frameAndRecord _ _
  · rw [he]; exact .frameAndRecord _ _
  · rw [he]; exact .nothing

/-- The inversion of `exec` on the trace: it only grows (R225). -/
theorem exec_handsOver {i : Instr} {s t : State} (h : exec i s = .next t) :
    ∃ o, t.trace = s.trace ++ o ∧ HandsOver o := by
  cases i with
  | feedLf | feedCr | lineComplete => cases h; exact ⟨_, rfl, completeLine_handsOver _ _⟩
  | feedAppend | append => cases h; exact ⟨_, rfl, appendByte_handsOver _ _⟩
  | feed => cases h; exact ⟨_, rfl, feedByte_handsOver _ _ _⟩
  | poll => cases h; exact ⟨_, rfl, pollBlock_handsOver _ _ _⟩
  | schedFull | schedEnergy => cases h; exact ⟨_, rfl, .frameAndRecord _ _⟩
  | txFull | txEnergy => cases h; exact ⟨_, rfl, .frame _⟩
  | diagBufferOverflow | diagTooShort | diagFieldCountMismatch | diagNotDecimal | diagTokenTooLong
  | diagTransmitFailure | diagTransmitOk => cases h; exact ⟨_, rfl, .record _⟩
  | tick | tokenize | writeField | schedIdle | diagNone | diagUnused =>
    cases h; exact ⟨_, rfl, .nothing⟩
  | reset | chTab | chPoint | chPlus | chMinus | chDigit07 | chDigit89 | chOther | decode | norm3
  | scan => cases h; exact ⟨[], (List.append_nil _).symm, .nothing⟩

/-- No instruction touches what is presented next. -/
theorem exec_inbox {i : Instr} {s t : State} (h : exec i s = .next t) : t.inbox = s.inbox := by
  cases i <;> cases h <;> rfl

/-- Settles O8: each way of handing over holds at most one frame and at most one record. -/
theorem everyInstructionCompletesAndOnlyAddsOutputs :
    Obligations.EveryInstructionCompletesAndOnlyAddsOutputs := by
  intro i s
  obtain ⟨t, ht⟩ := exec_next i s
  obtain ⟨o, htrace, ho⟩ := exec_handsOver ht
  refine ⟨t, o, ht, exec_inbox ht, htrace, ?_⟩
  cases ho with
  | nothing => exact ⟨Nat.zero_le 1, Nat.zero_le 1⟩
  | frame f => exact ⟨Nat.le_refl 1, Nat.zero_le 1⟩
  | record d => exact ⟨Nat.zero_le 1, Nat.le_refl 1⟩
  | frameAndRecord f d => exact ⟨Nat.le_refl 1, Nat.le_refl 1⟩

/-! ### The hardware's inputs -/

/-- Settles O7: what is left of a cycle is again cycles, and the event run leaves the inbox alone. -/
theorem hardwareInputsAlwaysStep : Obligations.HardwareInputsAlwaysStep := by
  intro s hs
  obtain ⟨inbox, hinbox, hidle | ⟨i, -, hrun⟩⟩ := step_external hs
  · exact ⟨_, hidle s.block, hinbox⟩
  · obtain ⟨t, ht⟩ := exec_next i { s with inbox := inbox }
    refine ⟨t, (hrun s.block).trans ht, ?_⟩
    rw [External, exec_inbox ht]
    exact hinbox

/-! ### TICK -/

/-- TICK hands nothing over, so the counter is all that it touches (R221). -/
theorem exec_tick (s : State) :
    exec .tick s = .next { s with block := { s.block with tick := s.block.tick + 1 } } := by
  have hexec : exec .tick s = .next (s.commit (tickBlock s.block, [])) := rfl
  simp [hexec, State.commit, tickBlock]

/-- Settles O11: the word's own addition is the addition modulo 2^32. -/
theorem tickAddsOneModulo : Obligations.TickAddsOneModulo := by
  refine fun s => ⟨exec_tick s, BitVec.toNat_add s.block.tick 1, fun hmax => ?wraps⟩
  case wraps => rw [hmax]; rfl

end Sys2Proof.Machine

/-! PROOF. A clock cycle of several strobes: its events, and the steps that run them one after another
(R90, R258). -/

namespace Sys2Proof.Machine

/-! ### The events of a cycle -/

/-- RESET wins alone (R258). -/
theorem firstEvent_of_rst {c : Cycle} (h : c.rst = true) :
    c.firstEvent = some .reset ∧ c.remainder = [] := by
  simp only [Cycle.firstEvent, Cycle.remainder, h, if_true, and_self]

theorem events_of_not_rst {c : Cycle} (h : c.rst = false) :
    c.events = (if c.tickInc then [.tick] else []) ++ (if c.rxValid then [.feed c.rxData] else []) ++
      (if c.poll then [.poll c.txOk] else []) := by
  simp only [Cycle.events, h, Bool.false_eq_true, if_false]

/-- A cycle's events are its first event and the events of what is left of it: nothing after RESET or the
last strobe, else a cycle that has an event (R258). -/
theorem events_cases {c : Cycle} {i : Instr} {es : List Instr} (h : c.events = i :: es) :
    c.firstEvent = some i ∧
      ((c.remainder = [] ∧ es = []) ∨ ∃ c', c.remainder = [c'] ∧ c'.events = es ∧ es ≠ []) := by
  obtain ⟨rst, tickInc, rxValid, rxData, poll, txOk⟩ := c
  match rst, tickInc, rxValid, poll with
  | true, _, _, _ | false, true, false, false | false, false, true, false
  | false, false, false, true => cases h; exact ⟨rfl, .inl ⟨rfl, rfl⟩⟩
  | false, true, true, _ | false, true, false, true | false, false, true, true =>
    cases h; exact ⟨rfl, .inr ⟨_, rfl, rfl, List.cons_ne_nil _ _⟩⟩
  | false, false, false, false => cases h

/-! ### Running them -/

/-- What an instruction does does not depend on what is presented next (log 1). -/
theorem exec_withInbox {i : Instr} {s t : State} (h : exec i s = .next t) (inbox : List Entry) :
    exec i { s with inbox := inbox } = .next { t with inbox := inbox } := by
  cases i <;> cases h <;> rfl

theorem run_succ {s t : State} (h : step s = .next t) (n : Nat) :
    Host.Core.run core (n + 1) s = Host.Core.run core n t := by
  have hstep : core.step s = .next t := h
  simp only [Host.Core.run, hstep]

theorem step_firstEvent {s : State} {c : Cycle} {rest : List Entry} {i : Instr}
    (hin : s.inbox = .cycle c :: rest) (h : c.firstEvent = some i) :
    step s = exec i { s with inbox := c.remainder.map Entry.cycle ++ rest } :=
  step_of_run ((fetch_cycle hin).trans (fetchCycle_run h rest s))

/-- One step for each event of a cycle runs them all: each step leaves the rest of the cycle first in the
inbox, which the event itself does not see. -/
theorem run_events {es : List Instr} (hne : es ≠ []) {c : Cycle} (hes : c.events = es) {s : State}
    {rest : List Entry} (hin : s.inbox = .cycle c :: rest) :
    Host.Core.run core es.length s = execAll es { s with inbox := rest } := by
  induction es generalizing c s with
  | nil => exact absurd rfl hne
  | cons i es ih =>
    obtain ⟨hfirst, hrem⟩ := events_cases hes
    obtain ⟨t, ht⟩ := exec_next i s
    have hstep : step s = .next { t with inbox := c.remainder.map Entry.cycle ++ rest } :=
      (step_firstEvent hin hfirst).trans (exec_withInbox ht _)
    rw [List.length_cons, run_succ hstep, execAll_cons (exec_withInbox ht rest)]
    obtain ⟨hnil, rfl⟩ | ⟨c', hc', hes', hne'⟩ := hrem
    · rw [hnil]; rfl
    · exact ih hne' hes' (congrArg (·.map Entry.cycle ++ rest) hc')

/-- Settles O5: RESET leaves nothing of its cycle, and the other events run one after another. -/
theorem cycleRunsTickThenFeedThenPoll : Obligations.CycleRunsTickThenFeedThenPoll := by
  refine fun s c rest hin => ⟨fun hrst => ?reset, fun hrst => ?events⟩
  case reset =>
    obtain ⟨hfirst, hrem⟩ := firstEvent_of_rst hrst
    rw [step_firstEvent hin hfirst, hrem]
    rfl
  case events =>
    intro es hne
    exact run_events hne (events_of_not_rst hrst) hin

end Sys2Proof.Machine

/-! PROOF. The DIAG rows: the record each hands over, and the codes that no record has (R250). -/

namespace Sys2Proof.Machine

/-- On the port a decode failure's aux is the byte that names the field in the row's word. -/
theorem diagAux_decodeFailure (k : Field) (e : DecodeError) :
    (diagAux (.decodeFailure k e)).zeroExtend 8 = fieldByte k := by
  cases k <;> rfl

/-- On the port a transmit status's aux is the byte that names the frame in the row's word. -/
theorem diagAux_txStatus (f : FrameKind) (ok : Bool) :
    (diagAux (.txStatus f ok)).zeroExtend 8 = frameBit f := by
  cases f <;> rfl

/-- Settles O43, row by row: the operand of a row is the aux of its record. -/
theorem diagRowsHandOverTheirRecord : Obligations.DiagRowsHandOverTheirRecord := by
  rintro s i d (⟨rfl, rfl⟩ | ⟨rfl, rfl⟩ | ⟨rfl, rfl⟩ | ⟨k, rfl, rfl⟩ | ⟨k, rfl, rfl⟩ | ⟨f, rfl, rfl⟩ |
    ⟨f, rfl, rfl⟩)
  case inl | inr.inl | inr.inr.inl => exact ⟨rfl, rfl⟩
  case inr.inr.inr.inl | inr.inr.inr.inr.inl => exact ⟨rfl, by rw [diagAux_decodeFailure]; rfl⟩
  case inr.inr.inr.inr.inr.inl | inr.inr.inr.inr.inr.inr =>
    exact ⟨rfl, by rw [diagAux_txStatus]; rfl⟩

@[simp] theorem hand_nil (s : State) : s.hand [] = s := by simp [State.hand]

theorem diagCode_range (d : Diag) : 1 ≤ (diagCode d).toNat ∧ (diagCode d).toNat ≤ 7 := by
  match d with
  | .bufferOverflow | .tooShort | .fieldCountMismatch => decide
  | .decodeFailure k .notDecimal | .decodeFailure k .tokenTooLong => simp [diagCode]
  | .txStatus f false | .txStatus f true => simp [diagCode]

/-- Settles O44: the two rows of the codes that no record has hand over the empty list. -/
theorem unemittedCodesHandOverNothing : Obligations.UnemittedCodesHandOverNothing :=
  ⟨diagCode_range, fun s _ =>
    have hidle : Host.Outcome.next (s.hand []) = .next s := congrArg Host.Outcome.next (hand_nil s)
    ⟨hidle, hidle⟩⟩

end Sys2Proof.Machine

/-! PROOF. RESET: the values it gives the block (R39, R280). -/

namespace Sys2Proof.Machine

/-- Every register of the reset value is 0 (R39). -/
@[simp] theorem get_regsZero (k : Field) : Regs.zero.get k = 0 := by
  cases k <;> rfl

/-- RESET replaces the block and the scratch and leaves the rest of the state (R280, log 5). -/
theorem exec_reset (s : State) :
    exec .reset s = .next { s with block := Block.reset, scratch := Scratch.start } := rfl

/-- Settles O9: the block that RESET answers with is `Block.reset`, whatever the state before. -/
theorem resetClearsTheBlock : Obligations.ResetClearsTheBlock := fun s =>
  ⟨_, exec_reset s, get_regsZero, rfl, rfl, rfl, rfl, rfl, rfl, rfl⟩

end Sys2Proof.Machine
